-- ==== Sys2Proof/Word.lean ====
section
/-! DEFINITION. The words of the block: every value is an unsigned integer (R11), every register and operand is read and
written whole (R61). -/

namespace Sys2Proof

/-- A 32-bit word: a configuration register, an operand, an event payload, a channel value, a result word
(`DUR_W` = `CH_W` = 32, R10). -/
abbrev Word := BitVec 32

/-- A duration in nanoseconds (`TIME_UNIT`, `DUR_W`; R10, R13). -/
abbrev Dur := BitVec 32

/-- A time sample in nanoseconds (`TIME_W`; R10, R53). -/
abbrev Time := BitVec 64

/-- One 80-bit request word (R80). -/
abbrev ReqWord := BitVec 80

/-- A pulse pair `(a, s)`: the assert ("on") duration and the deassert ("off") duration that follows it (R13). -/
structure PulsePair where
  /-- `a`, carrier present. -/
  on : Dur
  /-- `s`, carrier absent. -/
  off : Dur
  deriving DecidableEq, Repr

end Sys2Proof
end

