-- ==== Sys2Proof/Config.lean ====
section
/-! DEFINITION. What an implementation fixes (R9, R10), at the values the spec gives. The block leaves no value open (R247 and
93_implementation_defined.md), so there is no free value here. The widths `DUR_W`, `TIME_W`, `CH_W` are in Sys2Proof/Word.lean. The thresholds are not
here: they are configuration REGISTERS, part of State (R40). -/

namespace Sys2Proof

namespace Config

/-- `GFC_W`: the GFC frame width (R9). -/
abbrev gfcW : Nat := 10

/-- `A32_W`: the A32 frame width (R9). -/
abbrev a32W : Nat := 32

/-- `P9_W`: the P9 frame width, 8 data bits and one parity bit (R9). -/
abbrev p9W : Nat := 9

/-- `A32_TX_LEN`: the pulse pairs one A32.MARSHAL emits (R9). -/
abbrev a32TxLen : Nat := 34

/-- `P9_TX_LEN`: the pulse pairs one P9.MARSHAL emits (R9). -/
abbrev p9TxLen : Nat := 10

/-- `DISP_MAX`: the capacity of the dispatcher list (R10, D5). -/
abbrev dispMax : Nat := 8

/-- `MAX_CH`: the capacity of the PPM channel array (R10, D11). -/
abbrev maxCh : Nat := 16

end Config

/-- The `N_DEC` = 4 decoder instances, one per protocol (R10, D4). Their numbers are given by `DecoderId.bits`. -/
inductive DecoderId where
  /-- Generic-Fixed-Code, id 0. -/
  | gfc
  /-- Addressed-32-bit, id 1. -/
  | a32
  /-- Parity-9-bit, id 2. -/
  | p9
  /-- Proportional-Multichannel, id 3. -/
  | ppm
  deriving DecidableEq, Repr

end Sys2Proof
end

