-- ==== Sys2Proof/Syntax.lean ====
section
/-! DEFINITION. The operation set IRTRX-OPS v1 (R85): one constructor for each row of spec/opcode_table.json. An operand the
operation does not use is no argument of its constructor (R82: ignored). -/

namespace Sys2Proof

/-- One operation (R85). `on` and `off` are the operands A and B of a pulse operation (R82). -/
inductive Instr where
  /-- `PULSE a, s` (R210). -/
  | pulse (on off : Dur)
  /-- `GFC.PULSE a, s` (R110). -/
  | gfcPulse (on off : Dur)
  /-- `A32.PULSE a, s` (R130). -/
  | a32Pulse (on off : Dur)
  /-- `P9.PULSE a, s` (R160). -/
  | p9Pulse (on off : Dur)
  /-- `PPM.PULSE a, s` (R180). -/
  | ppmPulse (on off : Dur)
  /-- `DISP.REG id` (R215). -/
  | dispReg (id : DecoderId)
  /-- `A32.MARSHAL word` (R140). -/
  | a32Marshal (word : Word)
  /-- `A32.UNMARSHAL word, dst` (R145). `dst` is `SEL[0]`: the destination is present. -/
  | a32Unmarshal (dst : Bool) (word : Word)
  /-- `P9.MARSHAL byte` (R170). The operand is the whole of A: a value above 8 bits is a legal encoding that the operation
  answers with ERR_BAD_OPERAND (R173). -/
  | p9Marshal (operand : Word)
  /-- `PPM.CH i` (R190). -/
  | ppmCh (index : BitVec 8)
  /-- `PPM.CHS` (R192). -/
  | ppmChs
  /-- `PPM.STALE` (R194). -/
  | ppmStale
  /-- `CFG.WR reg, value` (R231). Reserved register numbers are legal encodings that answer ERR_BAD_REG (R230). -/
  | cfgWr (reg : BitVec 8) (value : Word)
  /-- `CFG.RD reg` (R233). -/
  | cfgRd (reg : BitVec 8)
  deriving DecidableEq, Repr

end Sys2Proof
end

