-- ==== Sys2Proof/WellFormed.lean ====
section
/-! DEFINITION. Which request headers are legal, written from R83 and R90 and not from the decoder's table (R85). Every term of
`Instr` is encodable as it stands (its operand types admit nothing else), so the check is on the header fields `OP` and `SEL`
of a request. What an operation itself checks (a register number, a channel index, a byte operand) is no matter of form:
those requests are legal and get a response with an error status. -/

namespace Sys2Proof

/-- The operation codes whose `SEL` must be 0 (R90, second bullet). -/
def opsWithoutSel : List (BitVec 8) := [0x01, 0x10, 0x12, 0x21, 0x22]

/-- The operation codes whose `SEL` is a decoder id 0..3 (R90, third bullet). -/
def opsWithDecoderId : List (BitVec 8) := [0x02, 0x03]

/-- The operation codes whose `SEL` is any 8-bit number: a channel index or a register number (R83). -/
def opsWithAnySel : List (BitVec 8) := [0x20, 0x30, 0x31]

/-- A32.UNMARSHAL, whose `SEL[7:1]` must be 0 (R90, fourth bullet). -/
def opUnmarshal : BitVec 8 := 0x11

/-- `OP` is one of the eleven assigned codes (R90, first bullet). -/
def opAssigned (op : BitVec 8) : Bool :=
  op ∈ opsWithoutSel || op ∈ opsWithDecoderId || op ∈ opsWithAnySel || op == opUnmarshal

/-- The header `{SEL, OP}` is not reserved (R90). -/
def headerLegal (op sel : BitVec 8) : Bool :=
  opAssigned op
    && (!(op ∈ opsWithoutSel) || sel == 0)
    && (!(op ∈ opsWithDecoderId) || decide (sel.toNat ≤ 3))
    && (!(op == opUnmarshal) || decide (sel.toNat ≤ 1))

end Sys2Proof
end

