-- ==== Sys2Proof/Decode.lean ====
section
/-! DEFINITION. The request format (R80), the decoder over the operation map (R85, R87), and after it the encoder. -/

namespace Sys2Proof

/-! ## Fields of a request (R80) -/

/-- `OP`, bits 7:0. -/
def reqOp (r : ReqWord) : BitVec 8 := r.extractLsb' 0 8

/-- `SEL`, bits 15:8. -/
def reqSel (r : ReqWord) : BitVec 8 := r.extractLsb' 8 8

/-- `HDR = {SEL, OP}`, bits 15:0: the decode word. -/
def reqHdr (r : ReqWord) : BitVec 16 := r.extractLsb' 0 16

/-- `A`, bits 47:16. -/
def reqA (r : ReqWord) : Word := r.extractLsb' 16 32

/-- `B`, bits 79:48. -/
def reqB (r : ReqWord) : Word := r.extractLsb' 48 32

/-- The request word with these four fields, `B` in the high part (R80). -/
def mkRequest (op sel : BitVec 8) (a b : Word) : ReqWord := b ++ a ++ sel ++ op

/-! ## Decoder ids (R10, R27) -/

/-- The number of a decoder: GFC=0, A32=1, P9=2, PPM=3. -/
def DecoderId.bits : DecoderId → BitVec 2
  | .gfc => 0
  | .a32 => 1
  | .p9 => 2
  | .ppm => 3

/-- The decoder with this number. -/
def DecoderId.ofBits (v : BitVec 2) : DecoderId :=
  if v = 0 then .gfc else if v = 1 then .a32 else if v = 2 then .p9 else .ppm

/-! ## The operation map (R85) -/

/-- The rows of the operation map, by mnemonic. -/
inductive Op where
  | pulse | gfcPulse | a32Pulse | p9Pulse | ppmPulse | dispReg | a32Marshal | a32Unmarshal | p9Marshal
  | ppmCh | ppmChs | ppmStale | cfgWr | cfgRd
  deriving DecidableEq, Repr

/-- One row: a header selects it when `HDR & mask` equals the row's pattern (R87). -/
structure OpRow where
  op : Op
  pattern : BitVec 16
  mask : BitVec 16
  deriving DecidableEq, Repr

/-- The row selects this header. -/
def OpRow.selects (row : OpRow) (hdr : BitVec 16) : Bool := (hdr &&& row.mask) == row.pattern

/-- The complete operation map (R85). -/
def opTable : List OpRow :=
  [ ⟨.pulse, 0x0001, 0xFFFF⟩,
    ⟨.gfcPulse, 0x0002, 0xFFFF⟩,
    ⟨.a32Pulse, 0x0102, 0xFFFF⟩,
    ⟨.p9Pulse, 0x0202, 0xFFFF⟩,
    ⟨.ppmPulse, 0x0302, 0xFFFF⟩,
    ⟨.dispReg, 0x0003, 0xFCFF⟩,
    ⟨.a32Marshal, 0x0010, 0xFFFF⟩,
    ⟨.a32Unmarshal, 0x0011, 0xFEFF⟩,
    ⟨.p9Marshal, 0x0012, 0xFFFF⟩,
    ⟨.ppmCh, 0x0020, 0x00FF⟩,
    ⟨.ppmChs, 0x0021, 0xFFFF⟩,
    ⟨.ppmStale, 0x0022, 0xFFFF⟩,
    ⟨.cfgWr, 0x0030, 0x00FF⟩,
    ⟨.cfgRd, 0x0031, 0x00FF⟩ ]

/-- The operation of the first row that selects the header, if one does (R87). -/
def selectOp (hdr : BitVec 16) : Option Op := (opTable.find? (·.selects hdr)).map (·.op)

/-- The operation with the operands that its row takes from the request (R82, R83, R85). -/
def Op.build (op : Op) (r : ReqWord) : Instr :=
  match op with
  | .pulse => .pulse (reqA r) (reqB r)
  | .gfcPulse => .gfcPulse (reqA r) (reqB r)
  | .a32Pulse => .a32Pulse (reqA r) (reqB r)
  | .p9Pulse => .p9Pulse (reqA r) (reqB r)
  | .ppmPulse => .ppmPulse (reqA r) (reqB r)
  | .dispReg => .dispReg (DecoderId.ofBits ((reqSel r).extractLsb' 0 2))
  | .a32Marshal => .a32Marshal (reqA r)
  | .a32Unmarshal => .a32Unmarshal ((reqSel r).getLsbD 0) (reqA r)
  | .p9Marshal => .p9Marshal (reqA r)
  | .ppmCh => .ppmCh (reqSel r)
  | .ppmChs => .ppmChs
  | .ppmStale => .ppmStale
  | .cfgWr => .cfgWr (reqSel r) (reqA r)
  | .cfgRd => .cfgRd (reqSel r)

/-- Why a header is reserved: the four bullets of R90. The names are the model's own; the hardware answers all of them with
ERR_ILLEGAL_OP and records nothing more (R242). -/
inductive DecodeError where
  /-- An unassigned `OP`. -/
  | unassignedOp (op : BitVec 8)
  /-- `SEL` must be 0 for this `OP`. -/
  | selNotZero (op sel : BitVec 8)
  /-- `SEL` is no decoder id. -/
  | noSuchDecoder (op sel : BitVec 8)
  /-- `SEL[7:1]` of A32.UNMARSHAL is not 0. -/
  | dstFlagReservedBits (sel : BitVec 8)
  deriving DecidableEq, Repr

/-- The name of the bullet of R90 that a header matching no row falls under. -/
def reservedReason (op sel : BitVec 8) : DecodeError :=
  if op ∈ opsWithoutSel then .selNotZero op sel
  else if op ∈ opsWithDecoderId then .noSuchDecoder op sel
  else if op = opUnmarshal then .dstFlagReservedBits sel
  else .unassignedOp op

/-- The decoder (R87): total on every request word, rejecting a reserved one by name (R90). It depends on the request alone, never on state
or configuration (R92). -/
def decode (r : ReqWord) : Except DecodeError Instr :=
  match selectOp (reqHdr r) with
  | some op => .ok (op.build r)
  | none => .error (reservedReason (reqOp r) (reqSel r))

/-- What the decoder reads from an instruction of `nbits` bits given as the number `w`, every bit above `nbits` being 0. A row
longer than a request has no instruction. -/
def decodeTableWord (nbits w : Nat) : Option Instr :=
  if nbits ≤ 80 then (decode (BitVec.ofNat 80 (w % 2 ^ nbits))).toOption else none

/-! ## Encoder -/

/-- The request word of an operation (R85). Unused fields are written as 0 (R102). -/
def encode : Instr → ReqWord
  | .pulse on off => mkRequest 0x01 0 on off
  | .gfcPulse on off => mkRequest 0x02 0 on off
  | .a32Pulse on off => mkRequest 0x02 1 on off
  | .p9Pulse on off => mkRequest 0x02 2 on off
  | .ppmPulse on off => mkRequest 0x02 3 on off
  | .dispReg id => mkRequest 0x03 (id.bits.setWidth 8) 0 0
  | .a32Marshal word => mkRequest 0x10 0 word 0
  | .a32Unmarshal dst word => mkRequest 0x11 (if dst then 1 else 0) word 0
  | .p9Marshal operand => mkRequest 0x12 0 operand 0
  | .ppmCh index => mkRequest 0x20 index 0 0
  | .ppmChs => mkRequest 0x21 0 0 0
  | .ppmStale => mkRequest 0x22 0 0 0
  | .cfgWr reg value => mkRequest 0x30 reg value 0
  | .cfgRd reg => mkRequest 0x31 reg 0 0

/-- The row of the operation map an operation belongs to. -/
def Instr.op : Instr → Op
  | .pulse _ _ => .pulse
  | .gfcPulse _ _ => .gfcPulse
  | .a32Pulse _ _ => .a32Pulse
  | .p9Pulse _ _ => .p9Pulse
  | .ppmPulse _ _ => .ppmPulse
  | .dispReg _ => .dispReg
  | .a32Marshal _ => .a32Marshal
  | .a32Unmarshal _ _ => .a32Unmarshal
  | .p9Marshal _ => .p9Marshal
  | .ppmCh _ => .ppmCh
  | .ppmChs => .ppmChs
  | .ppmStale => .ppmStale
  | .cfgWr _ _ => .cfgWr
  | .cfgRd _ => .cfgRd

end Sys2Proof
end

