-- ==== Sys2Proof/Machine/State.lean ====
section
/-! DEFINITION. All the state the spec gives the block (R20), its four ports (R50 to R53), and the state after reset (R271). -/

namespace Sys2Proof.Machine

/-! ## Records of the ports -/

/-- The kind of an event: the decoder that completed a frame. Kind 3 is never emitted and PPM emits no events (R50). -/
inductive EventKind where
  | gfc
  | a32
  | p9
  deriving DecidableEq, Repr

/-- One event record `{kind, payload}`, standing for one completion-callback invocation (R50). -/
structure Event where
  kind : EventKind
  payload : Word
  deriving DecidableEq, Repr

/-- The status codes (R95). No other code is produced. -/
inductive Status where
  /-- Every operation on success. -/
  | ok
  /-- `ERR_ILLEGAL_OP`: a reserved request (R242). -/
  | illegalOp
  /-- `ERR_NULL_DEST`: A32.UNMARSHAL without a destination (R243). -/
  | nullDest
  /-- `ERR_BAD_CHANNEL`: PPM.CH outside the configured channels (R190). -/
  | badChannel
  /-- `ERR_DISP_FULL`: DISP.REG on a full list (R215). -/
  | dispFull
  /-- `ERR_BAD_REG`: CFG.RD or CFG.WR of a reserved number (R230). -/
  | badReg
  /-- `ERR_BAD_VALUE`: CFG.WR of an illegal value (R232). -/
  | badValue
  /-- `ERR_BAD_OPERAND`: P9.MARSHAL of a value above 8 bits (R173). -/
  | badOperand
  deriving DecidableEq, Repr

/-- One response: a status and the result words (R52). -/
structure Response where
  status : Status
  data : List Word
  deriving DecidableEq, Repr

/-- One record that leaves the block: on the event stream (R50), the transmit stream (R51) or the response port (R52). -/
inductive Output where
  | event (e : Event)
  | tx (p : PulsePair)
  | response (r : Response)
  deriving DecidableEq, Repr

/-- What the environment presents to the block: a request with its `now` sample (R81), or the reset input, which comes between
operations only (R270). -/
inductive Input where
  | request (word : ReqWord) (now : Time)
  | reset
  deriving DecidableEq, Repr

/-! ## Registers -/

/-- The GFC decoder registers (R23). -/
structure GfcRegs where
  /-- `gfc_acc`. -/
  acc : BitVec 10
  /-- `gfc_cnt`. -/
  cnt : BitVec 4
  deriving DecidableEq, Repr

/-- The A32 decoder registers (R24). -/
structure A32Regs where
  /-- `a32_acc`. -/
  acc : BitVec 32
  /-- `a32_cnt`. -/
  cnt : BitVec 6
  deriving DecidableEq, Repr

/-- The P9 decoder registers (R25). -/
structure P9Regs where
  /-- `p9_acc`. -/
  acc : BitVec 9
  /-- `p9_cnt`. -/
  cnt : BitVec 4
  /-- `p9_par`, the running parity flag (R30). -/
  par : Bool
  deriving DecidableEq, Repr

/-- The PPM decoder registers (R26). -/
structure PpmRegs where
  /-- `ppm_ch[0..15]`. -/
  ch : Vector Word 16
  /-- `ppm_idx`. -/
  idx : BitVec 5
  /-- `ppm_last`: the `now` of the latest synchronization marker. -/
  last : Time
  /-- `ppm_synced`: a marker has been seen since reset (R30). -/
  synced : Bool
  deriving DecidableEq, Repr

/-- The dispatcher registers (R27). Entries at positions `len` and above are never read. -/
structure DispRegs where
  /-- `disp_len`. -/
  len : BitVec 4
  /-- `disp_list[0..7]`. -/
  list : Vector DecoderId 8
  deriving DecidableEq, Repr

/-- The names of the configuration registers (R40). Their numbers are given by `CfgReg.number`. -/
inductive CfgReg where
  | gfcStartAssert | gfcOneDeassert
  | a32IgnoreDeassert | a32StartDeassert | a32StartAssert | a32OneAssert
  | p9StartDeassert | p9OneDeassert
  | ppmSyncAssert | ppmTimeout | ppmTick | ppmNch
  | a32TxStartA | a32TxStartS | a32TxOneA | a32TxOneS | a32TxZeroA | a32TxZeroS
  | p9TxStartA | p9TxStartS | p9TxOneA | p9TxOneS | p9TxZeroA | p9TxZeroS
  | ppmSafe (i : Fin 16)
  deriving DecidableEq, Repr

/-- The configuration registers, 32 bits each (R40, R44). -/
structure CfgRegs where
  gfcStartAssert : Word
  gfcOneDeassert : Word
  a32IgnoreDeassert : Word
  a32StartDeassert : Word
  a32StartAssert : Word
  a32OneAssert : Word
  p9StartDeassert : Word
  p9OneDeassert : Word
  ppmSyncAssert : Word
  ppmTimeout : Word
  ppmTick : Word
  ppmNch : Word
  a32TxStartA : Word
  a32TxStartS : Word
  a32TxOneA : Word
  a32TxOneS : Word
  a32TxZeroA : Word
  a32TxZeroS : Word
  p9TxStartA : Word
  p9TxStartS : Word
  p9TxOneA : Word
  p9TxOneS : Word
  p9TxZeroA : Word
  p9TxZeroS : Word
  ppmSafe : Vector Word 16
  deriving DecidableEq, Repr

/-- The state of the block (R20) and its ports. -/
structure State where
  gfc : GfcRegs
  a32 : A32Regs
  p9 : P9Regs
  ppm : PpmRegs
  disp : DispRegs
  cfg : CfgRegs
  /-- The one sample of the time input that the current operation uses (R53). -/
  now : Time
  /-- What the environment will present, oldest first: the model's own field. DESIGN CHOICE (log entry 1), safe. -/
  inputs : List Input
  /-- What has left the block on its three output ports, in the order it left: the model's own field. DEDUCED from R71 (log entry 3), safe. -/
  out : List Output
  deriving DecidableEq, Repr

/-! ## Reset values (R271, R40) -/

/-- The GFC registers after reset. -/
def GfcRegs.reset : GfcRegs := { acc := 0, cnt := 0 }

/-- The A32 registers after reset. -/
def A32Regs.reset : A32Regs := { acc := 0, cnt := 0 }

/-- The P9 registers after reset. -/
def P9Regs.reset : P9Regs := { acc := 0, cnt := 0, par := false }

/-- The PPM registers after reset. -/
def PpmRegs.reset : PpmRegs := { ch := Vector.replicate 16 0, idx := 0, last := 0, synced := false }

/-- The dispatcher registers after reset: an empty list. -/
def DispRegs.reset : DispRegs := { len := 0, list := Vector.replicate 8 .gfc }

/-- The configuration registers after reset (R40). -/
def CfgRegs.reset : CfgRegs where
  gfcStartAssert := 7000000
  gfcOneDeassert := 1000000
  a32IgnoreDeassert := 10000000
  a32StartDeassert := 3000000
  a32StartAssert := 3000000
  a32OneAssert := 1000000
  p9StartDeassert := 1600000
  p9OneDeassert := 750000
  ppmSyncAssert := 6000000
  ppmTimeout := 600000000
  ppmTick := 1000
  ppmNch := 16
  a32TxStartA := 9000000
  a32TxStartS := 4500000
  a32TxOneA := 1687500
  a32TxOneS := 562500
  a32TxZeroA := 562500
  a32TxZeroS := 562500
  p9TxStartA := 500000
  p9TxStartS := 2000000
  p9TxOneA := 500000
  p9TxOneS := 1000000
  p9TxZeroA := 500000
  p9TxZeroS := 500000
  ppmSafe := Vector.replicate 16 0

/-- The machine right after reset (R271), with nothing presented yet and nothing emitted yet. `now` is an input and has no reset
value in the spec: 0 is a DESIGN CHOICE (log entry 2), unsafe. The empty `inputs` and `out` are the model's (log entries 1, 3). -/
def State.reset : State where
  gfc := GfcRegs.reset
  a32 := A32Regs.reset
  p9 := P9Regs.reset
  ppm := PpmRegs.reset
  disp := DispRegs.reset
  cfg := CfgRegs.reset
  now := 0
  inputs := []
  out := []

/-! ## Why a step could stop -/

/-- There is no fault: no operation leaves the block in a faulted, hung or undefined state (R247), and it has no traps (R253). So the type has
no constructor, no step can raise one, and there is nothing to say of safe or unsafe. DEDUCED (log entry 5). -/
inductive Fault where
  deriving DecidableEq, Repr

/-- The only refusal is the one the host's interface asks for. Every request has a defined result (R247), so no operation refuses. -/
inductive Refusal where
  /-- Raised by `exec` for an instruction without a meaning: none is left, so nobody raises it. Safe: the machine stops. -/
  | notModelled (mnemonic : String)
  deriving DecidableEq, Repr

end Sys2Proof.Machine
end

