-- ==== Sys2Proof/Machine/CfgMap.lean ====
section
/-! DEFINITION. The configuration register map (R40): numbers, reading, writing, legal values. -/

namespace Sys2Proof.Machine

/-- The number of a configuration register (R40). -/
def CfgReg.number : CfgReg → BitVec 8
  | .gfcStartAssert => 0x00
  | .gfcOneDeassert => 0x01
  | .a32IgnoreDeassert => 0x02
  | .a32StartDeassert => 0x03
  | .a32StartAssert => 0x04
  | .a32OneAssert => 0x05
  | .p9StartDeassert => 0x06
  | .p9OneDeassert => 0x07
  | .ppmSyncAssert => 0x08
  | .ppmTimeout => 0x09
  | .ppmTick => 0x0A
  | .ppmNch => 0x0B
  | .a32TxStartA => 0x10
  | .a32TxStartS => 0x11
  | .a32TxOneA => 0x12
  | .a32TxOneS => 0x13
  | .a32TxZeroA => 0x14
  | .a32TxZeroS => 0x15
  | .p9TxStartA => 0x18
  | .p9TxStartS => 0x19
  | .p9TxOneA => 0x1A
  | .p9TxOneS => 0x1B
  | .p9TxZeroA => 0x1C
  | .p9TxZeroS => 0x1D
  | .ppmSafe i => 0x20 + BitVec.ofNat 8 i

/-- The registers that have a name of their own, in the order of their numbers. -/
def CfgReg.named : List CfgReg :=
  [ .gfcStartAssert, .gfcOneDeassert, .a32IgnoreDeassert, .a32StartDeassert, .a32StartAssert, .a32OneAssert,
    .p9StartDeassert, .p9OneDeassert, .ppmSyncAssert, .ppmTimeout, .ppmTick, .ppmNch,
    .a32TxStartA, .a32TxStartS, .a32TxOneA, .a32TxOneS, .a32TxZeroA, .a32TxZeroS,
    .p9TxStartA, .p9TxStartS, .p9TxOneA, .p9TxOneS, .p9TxZeroA, .p9TxZeroS ]

/-- All configuration registers. -/
def CfgReg.all : List CfgReg := CfgReg.named ++ (List.finRange 16).map CfgReg.ppmSafe

/-- The register with this number; none for a reserved number (R40, R230). -/
def CfgReg.ofNumber (n : BitVec 8) : Option CfgReg := CfgReg.all.find? (fun r => r.number == n)

/-- `cfg[reg]` (R44). -/
def CfgRegs.read (c : CfgRegs) : CfgReg → Word
  | .gfcStartAssert => c.gfcStartAssert
  | .gfcOneDeassert => c.gfcOneDeassert
  | .a32IgnoreDeassert => c.a32IgnoreDeassert
  | .a32StartDeassert => c.a32StartDeassert
  | .a32StartAssert => c.a32StartAssert
  | .a32OneAssert => c.a32OneAssert
  | .p9StartDeassert => c.p9StartDeassert
  | .p9OneDeassert => c.p9OneDeassert
  | .ppmSyncAssert => c.ppmSyncAssert
  | .ppmTimeout => c.ppmTimeout
  | .ppmTick => c.ppmTick
  | .ppmNch => c.ppmNch
  | .a32TxStartA => c.a32TxStartA
  | .a32TxStartS => c.a32TxStartS
  | .a32TxOneA => c.a32TxOneA
  | .a32TxOneS => c.a32TxOneS
  | .a32TxZeroA => c.a32TxZeroA
  | .a32TxZeroS => c.a32TxZeroS
  | .p9TxStartA => c.p9TxStartA
  | .p9TxStartS => c.p9TxStartS
  | .p9TxOneA => c.p9TxOneA
  | .p9TxOneS => c.p9TxOneS
  | .p9TxZeroA => c.p9TxZeroA
  | .p9TxZeroS => c.p9TxZeroS
  | .ppmSafe i => c.ppmSafe[i]

/-- `cfg[reg] <- value` (R42, R231): that one register and no other. -/
def CfgRegs.write (c : CfgRegs) (reg : CfgReg) (value : Word) : CfgRegs :=
  match reg with
  | .gfcStartAssert => { c with gfcStartAssert := value }
  | .gfcOneDeassert => { c with gfcOneDeassert := value }
  | .a32IgnoreDeassert => { c with a32IgnoreDeassert := value }
  | .a32StartDeassert => { c with a32StartDeassert := value }
  | .a32StartAssert => { c with a32StartAssert := value }
  | .a32OneAssert => { c with a32OneAssert := value }
  | .p9StartDeassert => { c with p9StartDeassert := value }
  | .p9OneDeassert => { c with p9OneDeassert := value }
  | .ppmSyncAssert => { c with ppmSyncAssert := value }
  | .ppmTimeout => { c with ppmTimeout := value }
  | .ppmTick => { c with ppmTick := value }
  | .ppmNch => { c with ppmNch := value }
  | .a32TxStartA => { c with a32TxStartA := value }
  | .a32TxStartS => { c with a32TxStartS := value }
  | .a32TxOneA => { c with a32TxOneA := value }
  | .a32TxOneS => { c with a32TxOneS := value }
  | .a32TxZeroA => { c with a32TxZeroA := value }
  | .a32TxZeroS => { c with a32TxZeroS := value }
  | .p9TxStartA => { c with p9TxStartA := value }
  | .p9TxStartS => { c with p9TxStartS := value }
  | .p9TxOneA => { c with p9TxOneA := value }
  | .p9TxOneS => { c with p9TxOneS := value }
  | .p9TxZeroA => { c with p9TxZeroA := value }
  | .p9TxZeroS => { c with p9TxZeroS := value }
  | .ppmSafe i => { c with ppmSafe := c.ppmSafe.set i value }

/-- The values CFG.WR accepts (R40 "legal", R232): `PPM_TICK` is at least 1, `PPM_NCH` is 1..16, every other register takes every value. -/
def CfgReg.legal (reg : CfgReg) (value : Word) : Bool :=
  match reg with
  | .ppmTick => decide (1 ≤ value.toNat)
  | .ppmNch => decide (1 ≤ value.toNat ∧ value.toNat ≤ Config.maxCh)
  | _ => true

end Sys2Proof.Machine
end

