-- ==== Sys2Proof/Machine/Ops.lean ====
section
/-! DEFINITION. The operations the meanings share: writing a bit of an accumulator, the primitives of R12, raising an error status
(the block has no traps, R253: `State.raise` is what stands in their place), the reset input, taking a request. -/

namespace Sys2Proof.Machine

/-! ## Bits -/

/-- `v[i] <- b`. A position outside `v` is not written (log entry 6: no reachable state has one). -/
def setBit {w : Nat} (v : BitVec w) (i : Nat) (b : Bool) : BitVec w :=
  (v &&& ~~~(BitVec.twoPow w i)) ||| (if b then BitVec.twoPow w i else 0)

/-! ## The ports -/

/-- The number of an event kind, 2 bits (R50). -/
def EventKind.code : EventKind → BitVec 2
  | .gfc => 0
  | .a32 => 1
  | .p9 => 2

/-- The 8-bit code of a status (R95). -/
def Status.code : Status → BitVec 8
  | .ok => 0x00
  | .illegalOp => 0x01
  | .nullDest => 0x02
  | .badChannel => 0x03
  | .dispFull => 0x04
  | .badReg => 0x05
  | .badValue => 0x06
  | .badOperand => 0x07

/-- The record is on the event stream. -/
def Output.event? : Output → Option Event
  | .event e => some e
  | _ => none

/-- The record is on the transmit stream. -/
def Output.tx? : Output → Option PulsePair
  | .tx p => some p
  | _ => none

/-- The record is on the response port. -/
def Output.response? : Output → Option Response
  | .response r => some r
  | _ => none

/-- The event stream, oldest record first (R50). -/
def State.events (st : State) : List Event := st.out.filterMap Output.event?

/-- The transmit stream, oldest pair first (R51). -/
def State.txPairs (st : State) : List PulsePair := st.out.filterMap Output.tx?

/-- The responses given so far, oldest first (R52). -/
def State.responses (st : State) : List Response := st.out.filterMap Output.response?

/-! ## The primitives of R12 -/

/-- Append records to the output ports. -/
def State.append (st : State) (os : List Output) : State := { st with out := st.out ++ os }

/-- `emit_event`, for the at most one event of a decoder step (R12, R50). -/
def State.emitEvent? (st : State) (e : Option Event) : State := st.append (e.toList.map Output.event)

/-- `emit_tx` for each pair in order (R12, R51). -/
def State.emitTx (st : State) (ps : List PulsePair) : State := st.append (ps.map Output.tx)

/-- `respond(status, data)` (R12, R52). -/
def State.respond (st : State) (status : Status) (data : List Word) : State :=
  st.append [.response { status := status, data := data }]

/-- `raise E`: respond `(E, [])`, and nothing else (R12, R241). -/
def State.raise (st : State) (e : Status) : State := st.respond e []

/-! ## Requests and the reset input -/

/-- Take the request at the head of the input: its `now` sample is the one the whole operation uses (R53, R81). -/
def State.accept (st : State) (now : Time) (rest : List Input) : State := { st with now := now, inputs := rest }

/-- A reserved request (R90, R242). -/
def State.illegalRequest (st : State) : State := st.raise .illegalOp

/-- The reset input: every piece of the block's state takes its reset value (R270, R271). The streams keep what they hold, nothing is
appended, and there is no response (R270, R272). -/
def State.assertReset (st : State) : State :=
  { st with
    gfc := GfcRegs.reset
    a32 := A32Regs.reset
    p9 := P9Regs.reset
    ppm := PpmRegs.reset
    disp := DispRegs.reset
    cfg := CfgRegs.reset }

end Sys2Proof.Machine
end

