-- ==== Sys2Proof/Machine/CfgAccess.lean ====
section
/-! DEFINITION. Configuration access (46_config.md). -/

namespace Sys2Proof.Machine

/-- `CFG.WR reg, value` (R231): ERR_BAD_REG is checked before ERR_BAD_VALUE (R250). -/
def execCfgWr (reg : BitVec 8) (value : Word) (st : State) : Host.Outcome State Fault Refusal :=
  .next (match CfgReg.ofNumber reg with
    | none => st.raise .badReg
    | some r =>
      if r.legal value then ({ st with cfg := st.cfg.write r value }).respond .ok [] else st.raise .badValue)

/-- `CFG.RD reg` (R233). -/
def execCfgRd (reg : BitVec 8) (st : State) : Host.Outcome State Fault Refusal :=
  .next (match CfgReg.ofNumber reg with
    | none => st.raise .badReg
    | some r => st.respond .ok [st.cfg.read r])

end Sys2Proof.Machine
end

