-- ==== Sys2Proof/Machine/Operands.lean ====
section
/-! DEFINITION. The operand forms (R82, R83): durations against thresholds, the A32 frame word, the P9 data byte, the channel index. The
register number form is `CfgReg.ofNumber`. -/

namespace Sys2Proof.Machine

/-- `d > T`, the strict threshold test: a duration equal to the threshold takes the below branch (R14). -/
def above (d threshold : Dur) : Bool := decide (threshold.toNat < d.toNat)

/-- The address of an A32 frame word, bits 15:0, zero-extended (R64, R145). -/
def frameAddress (word : Word) : Word := (word.extractLsb' 0 16).setWidth 32

/-- The command of an A32 frame word, bits 31:16, zero-extended (R64, R145). -/
def frameCommand (word : Word) : Word := (word.extractLsb' 16 16).setWidth 32

/-- The data byte of P9.MARSHAL: `A[7:0]`, if `A[31:8]` is 0 (R170, R173). -/
def dataByte? (a : Word) : Option (BitVec 8) :=
  if a.extractLsb' 8 24 = 0 then some (a.extractLsb' 0 8) else none

/-- The channel a channel number names: one below the configured count `PPM_NCH` (R183, R190). The count is at most the 16
channels there are (R232); where it is not, which no run reaches, a number of 16 or more names no channel. DESIGN CHOICE (log entry 6), safe. -/
def channel? (c : CfgRegs) (n : Nat) : Option (Fin 16) :=
  if h : n < Config.maxCh ∧ n < c.ppmNch.toNat then some ⟨n, h.1⟩ else none

end Sys2Proof.Machine
end

