-- ==== Sys2Proof/Machine/Flags.lean ====
section
/-! DEFINITION. The flags (R30): the parity computations of P9 and the staleness predicate of PPM, which is computed and never stored. -/

namespace Sys2Proof.Machine

/-- The XOR of the bits of `v` (R28, R170). -/
def parity {w : Nat} (v : BitVec w) : Bool := (List.range w).foldl (fun p i => p ^^ v.getLsbD i) false

/-- The running parity flag after a data pulse carrying `bit`: toggled by a 1, untouched by a 0 (R162). -/
def runningParity (par bit : Bool) : Bool := par ^^ bit

/-- The parity bit of a marshalled byte, chosen so that the total parity is odd (R172). -/
def oddParityBit (d : BitVec 8) : Bool := true ^^ parity d

/-- `STALE(now)` (R185): no marker seen since reset, or more than `PPM_TIMEOUT` elapsed since the latest one. The subtraction is modulo 2^64,
the test is strict, the timeout is zero-extended. -/
def stale (c : CfgRegs) (r : PpmRegs) (now : Time) : Bool :=
  !r.synced || decide (c.ppmTimeout.toNat < (now - r.last).toNat)

end Sys2Proof.Machine
end

