-- ==== Sys2Proof/Machine/Addressed32.lean ====
section
/-! DEFINITION. The Addressed-32-bit decoder, marshaller and unmarshal (42_addressed32.md). -/

namespace Sys2Proof.Machine

/-- `A32_STEP(a, s)` on the decoder's registers, with the event it emits (R130 to R137). The repeat band is tested before the start band
(R134). -/
def a32Step (c : CfgRegs) (on off : Dur) (r : A32Regs) : A32Regs × Option Event :=
  if above off c.a32IgnoreDeassert then (r, none)
  else if above off c.a32StartDeassert then
    (if above on c.a32StartAssert then { acc := 0, cnt := 0 } else r, none)
  else if r.cnt.toNat = Config.a32W then (r, none)
  else
    let acc := setBit r.acc r.cnt.toNat (above on c.a32OneAssert)
    let cnt := r.cnt + 1
    ({ acc := acc, cnt := cnt },
      if cnt.toNat = Config.a32W then some { kind := .a32, payload := acc } else none)

/-- The decoder step as an effect on the block: also run by PULSE (R211). -/
def State.stepA32 (st : State) (on off : Dur) : State :=
  ({ st with a32 := (a32Step st.cfg on off st.a32).1 }).emitEvent? (a32Step st.cfg on off st.a32).2

/-- `A32.PULSE a, s` (R130). -/
def execA32Pulse (on off : Dur) (st : State) : Host.Outcome State Fault Refusal :=
  .next ((st.stepA32 on off).respond .ok [])

/-- The pair an A32 bit is sent as (R140, R141). -/
def a32BitPair (c : CfgRegs) (b : Bool) : PulsePair :=
  if b then { on := c.a32TxOneA, off := c.a32TxOneS } else { on := c.a32TxZeroA, off := c.a32TxZeroS }

/-- The pulse pairs of a marshalled A32 frame: the start pair, the 32 bits from bit 0 on, the terminating zero-bit pair (R63, R140, R141). -/
def a32Frame (c : CfgRegs) (word : Word) : List PulsePair :=
  { on := c.a32TxStartA, off := c.a32TxStartS }
    :: ((List.range Config.a32W).map (fun i => a32BitPair c (word.getLsbD i)) ++ [a32BitPair c false])

/-- `A32.MARSHAL word` (R140): only the transmit stream is written. -/
def execA32Marshal (word : Word) (st : State) : Host.Outcome State Fault Refusal :=
  .next ((st.emitTx (a32Frame st.cfg word)).respond .ok [])

/-- `A32.UNMARSHAL word, dst` (R145): the address and the command, or ERR_NULL_DEST where there is no destination (R146). -/
def execA32Unmarshal (dst : Bool) (word : Word) (st : State) : Host.Outcome State Fault Refusal :=
  .next (if dst then st.respond .ok [frameAddress word, frameCommand word] else st.raise .nullDest)

end Sys2Proof.Machine
end

