-- ==== Sys2Proof/Machine/GenericFixed.lean ====
section
/-! DEFINITION. The Generic-Fixed-Code decoder (41_generic_fixed_code.md). -/

namespace Sys2Proof.Machine

/-- `GFC_STEP(a, s)` on the decoder's registers, with the event it emits (R110 to R117). -/
def gfcStep (c : CfgRegs) (on off : Dur) (r : GfcRegs) : GfcRegs × Option Event :=
  if above on c.gfcStartAssert then ({ acc := 0, cnt := 0 }, none)
  else if r.cnt.toNat = Config.gfcW then (r, none)
  else
    let acc := setBit r.acc r.cnt.toNat (above off c.gfcOneDeassert)
    let cnt := r.cnt + 1
    ({ acc := acc, cnt := cnt },
      if cnt.toNat = Config.gfcW then some { kind := .gfc, payload := acc.setWidth 32 } else none)

/-- The decoder step as an effect on the block: also run by PULSE (R211). -/
def State.stepGfc (st : State) (on off : Dur) : State :=
  ({ st with gfc := (gfcStep st.cfg on off st.gfc).1 }).emitEvent? (gfcStep st.cfg on off st.gfc).2

/-- `GFC.PULSE a, s` (R110). -/
def execGfcPulse (on off : Dur) (st : State) : Host.Outcome State Fault Refusal :=
  .next ((st.stepGfc on off).respond .ok [])

end Sys2Proof.Machine
end

