-- ==== Sys2Proof/Machine/Parity9.lean ====
section
/-! DEFINITION. The Parity-9-bit decoder and marshaller (43_parity9.md). -/

namespace Sys2Proof.Machine

/-- `P9_STEP(a, s)` on the decoder's registers, with the event it emits (R160 to R165). The assert duration plays no part (R161). -/
def p9Step (c : CfgRegs) (off : Dur) (r : P9Regs) : P9Regs × Option Event :=
  if above off c.p9StartDeassert then ({ acc := 0, cnt := 0, par := false }, none)
  else
    let bit := above off c.p9OneDeassert
    let acc := if bit then setBit r.acc r.cnt.toNat true else r.acc
    let par := runningParity r.par bit
    let cnt := r.cnt + 1
    if cnt.toNat = Config.p9W then
      ({ acc := 0, cnt := 0, par := false },
        if par then some { kind := .p9, payload := (acc.extractLsb' 0 8).setWidth 32 } else none)
    else ({ acc := acc, cnt := cnt, par := par }, none)

/-- The decoder step as an effect on the block: also run by PULSE (R211). -/
def State.stepP9 (st : State) (off : Dur) : State :=
  ({ st with p9 := (p9Step st.cfg off st.p9).1 }).emitEvent? (p9Step st.cfg off st.p9).2

/-- `P9.PULSE a, s` (R160). -/
def execP9Pulse (_on off : Dur) (st : State) : Host.Outcome State Fault Refusal :=
  .next ((st.stepP9 off).respond .ok [])

/-- `PAIR(b)`: the pair a P9 bit is sent as (R170, R171). -/
def p9BitPair (c : CfgRegs) (b : Bool) : PulsePair :=
  if b then { on := c.p9TxOneA, off := c.p9TxOneS } else { on := c.p9TxZeroA, off := c.p9TxZeroS }

/-- The pulse pairs of a marshalled P9 frame: the start pair, the 8 data bits from bit 0 on, the parity bit; no terminator (R170, R172). -/
def p9Frame (c : CfgRegs) (d : BitVec 8) : List PulsePair :=
  { on := c.p9TxStartA, off := c.p9TxStartS }
    :: ((List.range 8).map (fun i => p9BitPair c (d.getLsbD i)) ++ [p9BitPair c (oddParityBit d)])

/-- `P9.MARSHAL byte` (R170): only the transmit stream is written, or ERR_BAD_OPERAND and nothing emitted (R173). -/
def execP9Marshal (operand : Word) (st : State) : Host.Outcome State Fault Refusal :=
  .next (match dataByte? operand with
    | some d => (st.emitTx (p9Frame st.cfg d)).respond .ok []
    | none => st.raise .badOperand)

end Sys2Proof.Machine
end

