-- ==== Sys2Proof/Machine/Proportional.lean ====
section
/-! DEFINITION. The Proportional-Multichannel decoder, its accessors and its staleness query (44_proportional.md). -/

namespace Sys2Proof.Machine

/-- `ROUND_TICK(d, t)`: `d` to the nearest multiple of `t`, an exact half rounded up (R186). -/
def roundTick (d t : Nat) : Nat := if t ≤ 2 * (d % t) then d - d % t + t else d - d % t

/-- `CHVAL(a, s)`: the exact sum, rounded, saturated at 2^32-1 (R184). -/
def channelValue (c : CfgRegs) (on off : Dur) : Word :=
  BitVec.ofNat 32 (min (roundTick (on.toNat + off.toNat) c.ppmTick.toNat) (2 ^ 32 - 1))

/-- `PPM_STEP(a, s, now)` on the decoder's registers (R180 to R184). It emits no event. -/
def ppmStep (c : CfgRegs) (now : Time) (on off : Dur) (r : PpmRegs) : PpmRegs :=
  if above on c.ppmSyncAssert then { r with last := now, idx := 0, synced := true }
  else if r.synced then
    match channel? c r.idx.toNat with
    | some i => { r with ch := r.ch.set i (channelValue c on off), idx := r.idx + 1 }
    | none => r
  else r

/-- The decoder step as an effect on the block: also run by PULSE (R211). -/
def State.stepPpm (st : State) (on off : Dur) : State :=
  { st with ppm := ppmStep st.cfg st.now on off st.ppm }

/-- `PPM.PULSE a, s` (R180). -/
def execPpmPulse (on off : Dur) (st : State) : Host.Outcome State Fault Refusal :=
  .next ((st.stepPpm on off).respond .ok [])

/-- What an accessor reads: the live channel values, or the safe values where the decoder is stale (R190, R192). -/
def State.channelSource (st : State) : Vector Word 16 :=
  if stale st.cfg st.ppm st.now then st.cfg.ppmSafe else st.ppm.ch

/-- `PPM.CH i` (R190). -/
def execPpmCh (index : BitVec 8) (st : State) : Host.Outcome State Fault Refusal :=
  .next (match channel? st.cfg index.toNat with
    | some i => st.respond .ok [st.channelSource[i]]
    | none => st.raise .badChannel)

/-- `PPM.CHS` (R192): `PPM_NCH` words, all live or all safe. -/
def execPpmChs (st : State) : Host.Outcome State Fault Refusal :=
  .next (st.respond .ok (st.channelSource.toList.take st.cfg.ppmNch.toNat))

/-- `PPM.STALE` (R194). -/
def execPpmStale (st : State) : Host.Outcome State Fault Refusal :=
  .next (st.respond .ok [if stale st.cfg st.ppm st.now then 1 else 0])

end Sys2Proof.Machine
end

