-- ==== Sys2Proof/Machine/Dispatcher.lean ====
section
/-! DEFINITION. The fan-out dispatcher (45_dispatcher.md). -/

namespace Sys2Proof.Machine

/-- `STEP(id, a, s, now)`: the decoder step that `id` names (R211). -/
def State.stepDecoder (st : State) (id : DecoderId) (on off : Dur) : State :=
  match id with
  | .gfc => st.stepGfc on off
  | .a32 => st.stepA32 on off
  | .p9 => st.stepP9 off
  | .ppm => st.stepPpm on off

/-- The registered decoders in registration order: entries 0 .. `disp_len`-1 (R27). -/
def DispRegs.members (r : DispRegs) : List DecoderId := r.list.toList.take r.len.toNat

/-- Step each of `ids` in turn with the same pair (R210, R212). -/
def State.stepAll (st : State) (ids : List DecoderId) (on off : Dur) : State :=
  ids.foldl (fun s id => s.stepDecoder id on off) st

/-- `PULSE a, s` (R210): every member once per entry, in list order. -/
def execPulse (on off : Dur) (st : State) : Host.Outcome State Fault Refusal :=
  .next ((st.stepAll st.disp.members on off).respond .ok [])

/-- `DISP.REG id` (R215): append, or ERR_DISP_FULL where the list holds `DISP_MAX` entries. -/
def execDispReg (id : DecoderId) (st : State) : Host.Outcome State Fault Refusal :=
  .next (if h : st.disp.len.toNat < Config.dispMax then
      ({ st with disp := { len := st.disp.len + 1, list := st.disp.list.set st.disp.len.toNat id h } }).respond .ok []
    else st.raise .dispFull)

end Sys2Proof.Machine
end

