-- ==== Sys2Proof/Machine/Dispatch.lean ====
section
/-! DEFINITION. One arm per operation (R85), each one direct call of its meaning. -/

namespace Sys2Proof.Machine

def exec (i : Instr) (s : State) : Host.Outcome State Fault Refusal :=
  match i with
  | .pulse a b => Sys2Proof.Machine.execPulse a b s
  | .gfcPulse a b => Sys2Proof.Machine.execGfcPulse a b s
  | .a32Pulse a b => Sys2Proof.Machine.execA32Pulse a b s
  | .p9Pulse a b => Sys2Proof.Machine.execP9Pulse a b s
  | .ppmPulse a b => Sys2Proof.Machine.execPpmPulse a b s
  | .dispReg id => Sys2Proof.Machine.execDispReg id s
  | .a32Marshal word => Sys2Proof.Machine.execA32Marshal word s
  | .a32Unmarshal dst word => Sys2Proof.Machine.execA32Unmarshal dst word s
  | .p9Marshal operand => Sys2Proof.Machine.execP9Marshal operand s
  | .ppmCh index => Sys2Proof.Machine.execPpmCh index s
  | .ppmChs => Sys2Proof.Machine.execPpmChs s
  | .ppmStale => Sys2Proof.Machine.execPpmStale s
  | .cfgWr reg value => Sys2Proof.Machine.execCfgWr reg value s
  | .cfgRd reg => Sys2Proof.Machine.execCfgRd reg s

end Sys2Proof.Machine
end

