-- ==== Sys2Proof/Machine/Step.lean ====
section
/-! DEFINITION. One step: the block takes the next input and carries the operation out to completion (R4, R67, R71). -/

namespace Sys2Proof.Machine

/-- One step. With a request, its operation is decoded (R87) and executed on the request's own `now` sample, or answered as reserved (R90).
With the reset input, the block is reset (R270). With nothing presented, the block is idle and keeps all its state (R261; log entry 7). -/
def step (st : State) : Host.Outcome State Fault Refusal :=
  match st.inputs with
  | [] => .next st
  | .reset :: rest => .next ({ st with inputs := rest }).assertReset
  | .request word now :: rest =>
    match decode word with
    | .ok i => exec i (st.accept now rest)
    | .error _ => .next (st.accept now rest).illegalRequest

/-- `st` with the request of `nbits` bits `w` (every bit above them 0) presented next, at the time sample that `st` holds. Requests are
not fetched from a memory (R22): this stands for the environment presenting one (log entry 1). -/
def State.withFetchWord (st : State) (nbits w : Nat) : State :=
  { st with inputs := .request (BitVec.ofNat 80 (w % 2 ^ nbits)) st.now :: st.inputs }

end Sys2Proof.Machine
end

