-- ==== Sys2Proof/Machine/Asm.lean ====
section
/-! DEFINITION. The assembler text of test programs (R100 to R103): from one line of characters to the operations it stands for, from the
lines of a program to the requests it presents. What R100 to R103 leave open is settled as log entry 9 says (DESIGN CHOICE, safe: a text the
rules do not give is refused). -/

namespace Sys2Proof.Machine

/-- The pieces of a line. -/
inductive AsmToken where
  | word (cs : List Char)
  | atSign
  | comma
  | lpar
  | rpar
  deriving DecidableEq, Repr

/-! ## Splitting a line -/

/-- A character of a mnemonic, a name or a number. -/
def isAsmWordChar (c : Char) : Bool := c.isAlphanum || c == '.' || c == '_'

/-- What a character between words stands for; none where the character has no place in a line. -/
def asmPunct? (c : Char) : Option (List AsmToken) :=
  if c == ' ' || c == '\t' then some []
  else if c == '@' then some [.atSign]
  else if c == ',' then some [.comma]
  else if c == '(' then some [.lpar]
  else if c == ')' then some [.rpar]
  else none

/-- The word gathered so far (its last character first) before the tokens that follow it. -/
def asmFlush (cur : List Char) (rest : List AsmToken) : List AsmToken :=
  if cur.isEmpty then rest else .word cur.reverse :: rest

/-- The tokens of a line up to its comment; `cur` is the word being gathered. -/
def asmLex (cur : List Char) : List Char → Option (List AsmToken)
  | [] => some (asmFlush cur [])
  | c :: cs =>
    if isAsmWordChar c then asmLex (c :: cur) cs
    else if c == ';' then some (asmFlush cur [])
    else match asmPunct? c, asmLex [] cs with
      | some p, some rest => some (asmFlush cur (p ++ rest))
      | _, _ => none

/-! ## Numbers (R101) -/

/-- The value of a decimal digit. -/
def decDigit? (c : Char) : Option Nat := if c.isDigit then some (c.toNat - '0'.toNat) else none

/-- The value of a hexadecimal digit. -/
def hexDigit? (c : Char) : Option Nat :=
  if c.isDigit then some (c.toNat - '0'.toNat)
  else if 'a' ≤ c ∧ c ≤ 'f' then some (c.toNat - 'a'.toNat + 10)
  else if 'A' ≤ c ∧ c ≤ 'F' then some (c.toNat - 'A'.toNat + 10)
  else none

/-- The number that digits write in a base, from the number read so far on. -/
def digitsValue (base : Nat) (digit? : Char → Option Nat) : Nat → List Char → Option Nat
  | n, [] => some n
  | n, c :: cs =>
    match digit? c with
    | some d => digitsValue base digit? (n * base + d) cs
    | none => none

/-- How many nanoseconds a unit suffix stands for. -/
def unitScale? (suffix : List Char) : Option Nat :=
  if suffix = [] ∨ suffix = "ns".toList then some 1
  else if suffix = "us".toList then some 1000
  else if suffix = "ms".toList then some 1000000
  else none

/-- A decimal number with its whole part, its fraction and its unit: the result must be a whole number of nanoseconds. -/
def scaledDecimal? (whole frac suffix : List Char) : Option Nat :=
  match digitsValue 10 decDigit? 0 whole, digitsValue 10 decDigit? 0 frac, unitScale? suffix with
  | some n, some f, some scale =>
    let total := (n * 10 ^ frac.length + f) * scale
    if whole ≠ [] ∧ total % 10 ^ frac.length = 0 then some (total / 10 ^ frac.length) else none
  | _, _, _ => none

/-- A number: hexadecimal, decimal, or decimal with a unit suffix (R101). -/
def asmNumber? (cs : List Char) : Option Nat :=
  match cs with
  | '0' :: 'x' :: hs => if hs = [] then none else digitsValue 16 hexDigit? 0 hs
  | _ =>
    match cs.dropWhile Char.isDigit with
    | '.' :: rest =>
      if rest.takeWhile Char.isDigit = [] then none
      else scaledDecimal? (cs.takeWhile Char.isDigit) (rest.takeWhile Char.isDigit) (rest.dropWhile Char.isDigit)
    | suffix => scaledDecimal? (cs.takeWhile Char.isDigit) [] suffix

/-- A number that fits in `w` bits. -/
def asmBits? (w : Nat) (cs : List Char) : Option (BitVec w) :=
  match asmNumber? cs with
  | some n => if n < 2 ^ w then some (BitVec.ofNat w n) else none
  | none => none

/-! ## Names (R40, R102) -/

/-- The configuration registers by the names of R40. -/
def cfgNames : List (List Char × CfgReg) :=
  [ ("GFC_START_ASSERT".toList, .gfcStartAssert), ("GFC_ONE_DEASSERT".toList, .gfcOneDeassert),
    ("A32_IGNORE_DEASSERT".toList, .a32IgnoreDeassert), ("A32_START_DEASSERT".toList, .a32StartDeassert),
    ("A32_START_ASSERT".toList, .a32StartAssert), ("A32_ONE_ASSERT".toList, .a32OneAssert),
    ("P9_START_DEASSERT".toList, .p9StartDeassert), ("P9_ONE_DEASSERT".toList, .p9OneDeassert),
    ("PPM_SYNC_ASSERT".toList, .ppmSyncAssert), ("PPM_TIMEOUT".toList, .ppmTimeout),
    ("PPM_TICK".toList, .ppmTick), ("PPM_NCH".toList, .ppmNch),
    ("A32_TX_START_A".toList, .a32TxStartA), ("A32_TX_START_S".toList, .a32TxStartS),
    ("A32_TX_ONE_A".toList, .a32TxOneA), ("A32_TX_ONE_S".toList, .a32TxOneS),
    ("A32_TX_ZERO_A".toList, .a32TxZeroA), ("A32_TX_ZERO_S".toList, .a32TxZeroS),
    ("P9_TX_START_A".toList, .p9TxStartA), ("P9_TX_START_S".toList, .p9TxStartS),
    ("P9_TX_ONE_A".toList, .p9TxOneA), ("P9_TX_ONE_S".toList, .p9TxOneS),
    ("P9_TX_ZERO_A".toList, .p9TxZeroA), ("P9_TX_ZERO_S".toList, .p9TxZeroS) ]
    ++ (List.finRange 16).map (fun (i : Fin 16) => ("PPM_SAFE".toList ++ Nat.toDigits 10 i.val, CfgReg.ppmSafe i))

/-- A register operand: a number, or the number of the register named (R102). -/
def asmReg? (cs : List Char) : Option (BitVec 8) :=
  match cfgNames.lookup cs with
  | some r => some r.number
  | none => asmBits? 8 cs

/-- A decoder operand of DISP.REG (R102). -/
def asmDecoder? (cs : List Char) : Option DecoderId :=
  if cs = "GFC".toList then some .gfc
  else if cs = "A32".toList then some .a32
  else if cs = "P9".toList then some .p9
  else if cs = "PPM".toList then some .ppm
  else none

/-- The destination operand of A32.UNMARSHAL (R102). -/
def asmDst? (cs : List Char) : Option Bool :=
  if cs = "DST".toList then some true else if cs = "NULL".toList then some false else none

/-! ## Operands -/

/-- One word or more, separated by commas. -/
def asmWords1? : List AsmToken → Option (List (List Char))
  | [.word w] => some [w]
  | .word w :: .comma :: rest => (asmWords1? rest).map (w :: ·)
  | _ => none

/-- The operands of a line (R100). -/
def asmWords? (ts : List AsmToken) : Option (List (List Char)) := if ts = [] then some [] else asmWords1? ts

/-- The list of pairs of `RX` (R103). -/
def asmPairs? : List AsmToken → Option (List (List Char × List Char))
  | [] => some []
  | .lpar :: .word a :: .comma :: .word s :: .rpar :: rest => (asmPairs? rest).map ((a, s) :: ·)
  | _ => none

/-- No operand. -/
def asmNone (i : List Instr) : List (List Char) → Option (List Instr)
  | [] => some i
  | _ => none

/-- One operand. -/
def asmOne {α : Type} (read : List Char → Option α) (f : α → Instr) : List (List Char) → Option (List Instr)
  | [x] => (read x).map (fun v => [f v])
  | _ => none

/-- Two operands. -/
def asmTwo {α β : Type} (readX : List Char → Option α) (readY : List Char → Option β) (f : α → β → Instr) :
    List (List Char) → Option (List Instr)
  | [x, y] =>
    match readX x, readY y with
    | some v, some w => some [f v w]
    | _, _ => none
  | _ => none

/-- Each mnemonic with its operands (R102), and the two pseudo-instructions with plain operands (R103). `A32.SEND` takes an address and a command below 2^16 and is refused for any other. -/
def asmTable : List (List Char × (List (List Char) → Option (List Instr))) :=
  [ ("PULSE".toList, asmTwo (asmBits? 32) (asmBits? 32) .pulse),
    ("GFC.PULSE".toList, asmTwo (asmBits? 32) (asmBits? 32) .gfcPulse),
    ("A32.PULSE".toList, asmTwo (asmBits? 32) (asmBits? 32) .a32Pulse),
    ("P9.PULSE".toList, asmTwo (asmBits? 32) (asmBits? 32) .p9Pulse),
    ("PPM.PULSE".toList, asmTwo (asmBits? 32) (asmBits? 32) .ppmPulse),
    ("DISP.REG".toList, asmOne asmDecoder? .dispReg),
    ("A32.MARSHAL".toList, asmOne (asmBits? 32) .a32Marshal),
    ("A32.UNMARSHAL".toList, asmTwo (asmBits? 32) asmDst? (fun word dst => .a32Unmarshal dst word)),
    ("P9.MARSHAL".toList, asmOne (asmBits? 32) .p9Marshal),
    ("PPM.CH".toList, asmOne (asmBits? 8) .ppmCh),
    ("PPM.CHS".toList, asmNone [.ppmChs]),
    ("PPM.STALE".toList, asmNone [.ppmStale]),
    ("CFG.WR".toList, asmTwo asmReg? (asmBits? 32) .cfgWr),
    ("CFG.RD".toList, asmOne asmReg? .cfgRd),
    ("A32.SEND".toList, asmTwo (asmBits? 16) (asmBits? 16) (fun addr cmd => .a32Marshal (cmd ++ addr))),
    ("DISP.REGALL".toList, asmNone [.dispReg .gfc, .dispReg .a32, .dispReg .p9, .dispReg .ppm]) ]

/-- One PULSE for a pair of `RX` (R103). -/
def asmPulse? (p : List Char × List Char) : Option Instr :=
  match asmBits? 32 p.1, asmBits? 32 p.2 with
  | some a, some s => some (.pulse a s)
  | _, _ => none

/-- The operations that a mnemonic or a pseudo-instruction with its operands stands for (R102, R103). -/
def asmOps? (mnemonic : List Char) (ts : List AsmToken) : Option (List Instr) :=
  if mnemonic = "RX".toList then (asmPairs? ts).bind (fun ps => ps.mapM asmPulse?)
  else match asmTable.lookup mnemonic, asmWords? ts with
    | some f, some ws => f ws
    | _, _ => none

/-! ## Lines and programs (R100) -/

/-- One line: its `@now`, if it has one, and its operations. -/
structure AsmLine where
  now : Option Time
  ops : List Instr
  deriving DecidableEq, Repr

/-- One line of text. A line with no more than a comment has no operation. -/
def asmLine? (text : List Char) : Option AsmLine :=
  match asmLex [] text with
  | some [] => some { now := none, ops := [] }
  | some (.atSign :: .word n :: .word m :: ts) =>
    match asmBits? 64 n, asmOps? m ts with
    | some now, some ops => some { now := some now, ops := ops }
    | _, _ => none
  | some (.word m :: ts) => (asmOps? m ts).map (fun ops => { now := none, ops := ops })
  | _ => none

/-- The requests that a program presents, `prev` being the previous line's `now` (R100). None where a line is refused. -/
def assembleFrom (prev : Time) : List (List Char) → Option (List Input)
  | [] => some []
  | line :: lines =>
    match asmLine? line with
    | none => none
    | some l =>
      let now := l.now.getD prev
      (assembleFrom now lines).map (fun rest => l.ops.map (fun i => .request (encode i) now) ++ rest)

/-- A whole program: `now` is 0 on the first line unless the line says otherwise (R100). -/
def assemble (lines : List (List Char)) : Option (List Input) := assembleFrom 0 lines

end Sys2Proof.Machine
end

