-- ==== Sys2Proof/Safety.lean ====
section
/-! DEFINITION. The terms claims are stated in: the invariants (R28, R232), which part of the state an operation may write (R29), runs of
several operations, the host's duties as named premises (R285) and the boot sequence (R280). -/

namespace Sys2Proof.Machine

/-! ## Invariants -/

/-- What every operation preserves and reset establishes: R28, and the legal values of the two checked registers (R232). -/
structure State.Inv (st : State) : Prop where
  /-- `gfc_cnt <= 10`. -/
  gfcCnt : st.gfc.cnt.toNat ≤ 10
  /-- `a32_cnt <= 32`. -/
  a32Cnt : st.a32.cnt.toNat ≤ 32
  /-- `p9_cnt <= 8`. -/
  p9Cnt : st.p9.cnt.toNat ≤ 8
  /-- `ppm_idx <= 16`. -/
  ppmIdx : st.ppm.idx.toNat ≤ 16
  /-- `disp_len <= 8`. -/
  dispLen : st.disp.len.toNat ≤ 8
  /-- Every bit of `gfc_acc` at a position >= its counter is 0. -/
  gfcAcc : ∀ k, st.gfc.cnt.toNat ≤ k → st.gfc.acc.getLsbD k = false
  /-- Every bit of `a32_acc` at a position >= its counter is 0. -/
  a32Acc : ∀ k, st.a32.cnt.toNat ≤ k → st.a32.acc.getLsbD k = false
  /-- Every bit of `p9_acc` at a position >= its counter is 0. -/
  p9Acc : ∀ k, st.p9.cnt.toNat ≤ k → st.p9.acc.getLsbD k = false
  /-- `p9_par` is the XOR of the bits of `p9_acc`. -/
  p9Par : st.p9.par = parity st.p9.acc
  /-- `PPM_TICK` is at least 1. -/
  tick : 1 ≤ st.cfg.ppmTick.toNat
  /-- `PPM_NCH` is at least 1. -/
  nchPos : 1 ≤ st.cfg.ppmNch.toNat
  /-- `PPM_NCH` is at most 16. -/
  nchMax : st.cfg.ppmNch.toNat ≤ 16

/-! ## Frames -/

/-- The sample of `now` and what is still to be presented are as before. -/
def SamePorts (s t : State) : Prop := t.now = s.now ∧ t.inputs = s.inputs

/-- Every register of the block is as before. -/
def RegistersKept (s t : State) : Prop :=
  t.gfc = s.gfc ∧ t.a32 = s.a32 ∧ t.p9 = s.p9 ∧ t.ppm = s.ppm ∧ t.disp = s.disp ∧ t.cfg = s.cfg

/-- No register of the block is written. -/
def NoRegisterWritten (s t : State) : Prop := RegistersKept s t ∧ SamePorts s t

/-- No register but the GFC decoder's is written. -/
def OnlyGfcWritten (s t : State) : Prop :=
  t.a32 = s.a32 ∧ t.p9 = s.p9 ∧ t.ppm = s.ppm ∧ t.disp = s.disp ∧ t.cfg = s.cfg ∧ SamePorts s t

/-- No register but the A32 decoder's is written. -/
def OnlyA32Written (s t : State) : Prop :=
  t.gfc = s.gfc ∧ t.p9 = s.p9 ∧ t.ppm = s.ppm ∧ t.disp = s.disp ∧ t.cfg = s.cfg ∧ SamePorts s t

/-- No register but the P9 decoder's is written. -/
def OnlyP9Written (s t : State) : Prop :=
  t.gfc = s.gfc ∧ t.a32 = s.a32 ∧ t.ppm = s.ppm ∧ t.disp = s.disp ∧ t.cfg = s.cfg ∧ SamePorts s t

/-- No register but the PPM decoder's is written. -/
def OnlyPpmWritten (s t : State) : Prop :=
  t.gfc = s.gfc ∧ t.a32 = s.a32 ∧ t.p9 = s.p9 ∧ t.disp = s.disp ∧ t.cfg = s.cfg ∧ SamePorts s t

/-- No register but the dispatcher's is written. -/
def OnlyDispWritten (s t : State) : Prop :=
  t.gfc = s.gfc ∧ t.a32 = s.a32 ∧ t.p9 = s.p9 ∧ t.ppm = s.ppm ∧ t.cfg = s.cfg ∧ SamePorts s t

/-- No register but a configuration register is written. -/
def OnlyCfgWritten (s t : State) : Prop :=
  t.gfc = s.gfc ∧ t.a32 = s.a32 ∧ t.p9 = s.p9 ∧ t.ppm = s.ppm ∧ t.disp = s.disp ∧ SamePorts s t

/-- The block emitted these records, in this order, and no other. -/
def Emits (s t : State) (os : List Output) : Prop := t.out = s.out ++ os

/-- The response `(OK, [])`. -/
def okResponse : Output := .response { status := .ok, data := [] }

/-! ## Conditions the rules give, in numbers -/

/-- Every register holds the value R271 gives it, the configuration registers those of the table of R40. -/
structure ResetValues (t : State) : Prop where
  gfc : t.gfc.acc = 0 ∧ t.gfc.cnt = 0
  a32 : t.a32.acc = 0 ∧ t.a32.cnt = 0
  p9 : t.p9.acc = 0 ∧ t.p9.cnt = 0 ∧ t.p9.par = false
  ppm : (∀ i : Fin 16, t.ppm.ch[i] = 0) ∧ t.ppm.idx = 0 ∧ t.ppm.last = 0 ∧ t.ppm.synced = false
  disp : t.disp.len = 0 ∧ ∀ k : Fin 8, t.disp.list[k] = .gfc
  thresholds : t.cfg.gfcStartAssert = 7000000 ∧ t.cfg.gfcOneDeassert = 1000000 ∧ t.cfg.a32IgnoreDeassert = 10000000
    ∧ t.cfg.a32StartDeassert = 3000000 ∧ t.cfg.a32StartAssert = 3000000 ∧ t.cfg.a32OneAssert = 1000000
    ∧ t.cfg.p9StartDeassert = 1600000 ∧ t.cfg.p9OneDeassert = 750000 ∧ t.cfg.ppmSyncAssert = 6000000
  ppmCfg : t.cfg.ppmTimeout = 600000000 ∧ t.cfg.ppmTick = 1000 ∧ t.cfg.ppmNch = 16
  a32Tx : t.cfg.a32TxStartA = 9000000 ∧ t.cfg.a32TxStartS = 4500000 ∧ t.cfg.a32TxOneA = 1687500 ∧ t.cfg.a32TxOneS = 562500
    ∧ t.cfg.a32TxZeroA = 562500 ∧ t.cfg.a32TxZeroS = 562500
  p9Tx : t.cfg.p9TxStartA = 500000 ∧ t.cfg.p9TxStartS = 2000000 ∧ t.cfg.p9TxOneA = 500000 ∧ t.cfg.p9TxOneS = 1000000
    ∧ t.cfg.p9TxZeroA = 500000 ∧ t.cfg.p9TxZeroS = 500000
  safe : ∀ i : Fin 16, t.cfg.ppmSafe[i] = 0

/-- The condition of staleness in exact integers (R185). -/
def StaleAt (c : CfgRegs) (r : PpmRegs) (now : Time) : Prop :=
  r.synced = false ∨ c.ppmTimeout.toNat < (now.toNat + 2 ^ 64 - r.last.toNat) % 2 ^ 64

/-- A configuration register number that R230 lists as reserved. -/
def ReservedCfgNumber (n : BitVec 8) : Prop :=
  (0x0C ≤ n.toNat ∧ n.toNat ≤ 0x0F) ∨ (0x16 ≤ n.toNat ∧ n.toNat ≤ 0x17) ∨ (0x1E ≤ n.toNat ∧ n.toNat ≤ 0x1F) ∨ 0x30 ≤ n.toNat

/-- A value that R232 refuses: 0 for `PPM_TICK` (0x0A), a value outside 1..16 for `PPM_NCH` (0x0B). -/
def IllegalCfgValue (n : BitVec 8) (v : Word) : Prop :=
  (n = 0x0A ∧ v.toNat = 0) ∨ (n = 0x0B ∧ (v.toNat = 0 ∨ 16 < v.toNat))

/-- The configuration registers with their numbers, as the table of R40 lists them: thresholds and PPM, transmit durations, safe values. -/
def cfgRegisterMap (c : CfgRegs) : List (BitVec 8 × Word) :=
  ([(0x00, c.gfcStartAssert), (0x01, c.gfcOneDeassert), (0x02, c.a32IgnoreDeassert), (0x03, c.a32StartDeassert),
    (0x04, c.a32StartAssert), (0x05, c.a32OneAssert), (0x06, c.p9StartDeassert), (0x07, c.p9OneDeassert),
    (0x08, c.ppmSyncAssert), (0x09, c.ppmTimeout), (0x0A, c.ppmTick), (0x0B, c.ppmNch)] : List (BitVec 8 × Word))
  ++ ([(0x10, c.a32TxStartA), (0x11, c.a32TxStartS), (0x12, c.a32TxOneA), (0x13, c.a32TxOneS), (0x14, c.a32TxZeroA),
    (0x15, c.a32TxZeroS), (0x18, c.p9TxStartA), (0x19, c.p9TxStartS), (0x1A, c.p9TxOneA), (0x1B, c.p9TxOneS),
    (0x1C, c.p9TxZeroA), (0x1D, c.p9TxZeroS)] : List (BitVec 8 × Word))
  ++ (List.finRange 16).map (fun i => (BitVec.ofNat 8 (0x20 + i.val), c.ppmSafe[i]))

/-- The conditions under which an A32 frame comes back as it was marshalled (R142). -/
structure A32RoundTripConfig (c : CfgRegs) : Prop where
  startBand : c.a32StartDeassert.toNat < c.a32TxStartS.toNat
  startNotIgnored : c.a32TxStartS.toNat ≤ c.a32IgnoreDeassert.toNat
  startAssert : c.a32StartAssert.toNat < c.a32TxStartA.toNat
  oneOff : c.a32TxOneS.toNat ≤ c.a32StartDeassert.toNat ∧ c.a32TxOneS.toNat ≤ c.a32IgnoreDeassert.toNat
  zeroOff : c.a32TxZeroS.toNat ≤ c.a32StartDeassert.toNat ∧ c.a32TxZeroS.toNat ≤ c.a32IgnoreDeassert.toNat
  oneOn : c.a32OneAssert.toNat < c.a32TxOneA.toNat
  zeroOn : c.a32TxZeroA.toNat ≤ c.a32OneAssert.toNat

/-- The conditions under which a P9 frame comes back as it was marshalled (R174). -/
structure P9RoundTripConfig (c : CfgRegs) : Prop where
  start : c.p9StartDeassert.toNat < c.p9TxStartS.toNat
  one : c.p9OneDeassert.toNat < c.p9TxOneS.toNat ∧ c.p9TxOneS.toNat ≤ c.p9StartDeassert.toNat
  zero : c.p9TxZeroS.toNat ≤ c.p9OneDeassert.toNat

/-! ## Runs of several operations -/

/-- The operations of a list one after another. -/
def execAll : List Instr → State → Host.Outcome State Fault Refusal
  | [], s => .next s
  | i :: is, s =>
    match exec i s with
    | .next t => execAll is t
    | .fault f => .fault f
    | .refused r => .refused r

/-- A run of `k` steps that never stops. -/
def SafeRun (k : Nat) (s : State) : Prop := ∃ t : State, Host.Core.run Sys2Proof.core k s = .next t

/-- The requests of a list of operations, all with the same `now` (as the pseudo-instruction RX presents them, R103). -/
def requestsAt (now : Time) (is : List Instr) : List Input := is.map (fun i => .request (encode i) now)

/-- The decoder-step operation of a decoder (R86). -/
def pulseOpOf (id : DecoderId) (on off : Dur) : Instr :=
  match id with
  | .gfc => .gfcPulse on off
  | .a32 => .a32Pulse on off
  | .p9 => .p9Pulse on off
  | .ppm => .ppmPulse on off

/-! ## Host duties (R285): premises, never enforced -/

/-- The `now` samples of the requests presented. -/
def requestTimes (xs : List Input) : List Time :=
  xs.filterMap (fun x => match x with
    | .request _ now => some now
    | .reset => none)

/-- `NOW_MONO`: `now` never decreases from one operation to the next (R53). -/
def NowMono (xs : List Input) : Prop := (requestTimes xs).Pairwise (fun a b => a.toNat ≤ b.toNat)

/-- How the producer delivers a measured duration: one above 2^32-1 ns as 2^32-1 (R54). -/
def deliveredDur (measured : Nat) : Dur := BitVec.ofNat 32 (min measured (2 ^ 32 - 1))

/-- `DUR_SAT`: the pairs presented are the measured ones, each duration delivered saturated (R54). -/
def DurSat (measured : List (Nat × Nat)) (presented : List PulsePair) : Prop :=
  presented = measured.map (fun m => { on := deliveredDur m.1, off := deliveredDur m.2 })

/-- The pulse pair of a pulse-consuming operation (R82). -/
def pulsePair? : Instr → Option PulsePair
  | .pulse on off => some { on := on, off := off }
  | .gfcPulse on off => some { on := on, off := off }
  | .a32Pulse on off => some { on := on, off := off }
  | .p9Pulse on off => some { on := on, off := off }
  | .ppmPulse on off => some { on := on, off := off }
  | _ => none

/-- The pulse pairs presented, through whichever pulse operation, each with its operation, in the order the block gets them. -/
def presentedPulses (xs : List Input) : List (Op × PulsePair) :=
  xs.filterMap (fun x => match x with
    | .request word _ => (decode word).toOption.bind (fun i => (pulsePair? i).map (fun p => (i.op, p)))
    | .reset => none)

/-- `PULSE_ORDER`: the block gets pulse pairs in the order in which they occurred (R74). Each pair presented is one that occurred, `times` saying which;
no pair comes after a later one, be it through another operation; and no occurrence comes twice through one operation. -/
def PulseOrder (occurred : List PulsePair) (xs : List Input) : Prop :=
  ∃ times : List Nat, times.map (fun k => occurred[k]?) = (presentedPulses xs).map (fun q => some q.2)
    ∧ times.Pairwise (· ≤ ·)
    ∧ (((presentedPulses xs).map Prod.fst).zip times).Nodup

/-- `SERIAL`: what the request port accepts is a merge of what the agents issue, each in its own order (R73). -/
inductive Serial : List (List Input) → List Input → Prop where
  /-- Nothing is left to issue. -/
  | done (agents : List (List Input)) (h : ∀ a ∈ agents, a = []) : Serial agents []
  /-- The port accepts the next input of agent `k`. -/
  | accept (agents : List (List Input)) (k : Nat) (x : Input) (rest xs : List Input) (h : agents[k]? = some (x :: rest))
      (hs : Serial (agents.set k rest) xs) : Serial agents (x :: xs)

/-- `NO_STALL`: the event consumer and the transmit sink have received every record that was appended (R50, R51). -/
def NoStall (st : State) (receivedEvents : List Event) (receivedPairs : List PulsePair) : Prop :=
  receivedEvents = st.events ∧ receivedPairs = st.txPairs

/-! ## Boot (R280) -/

/-- The register writes of a boot: every register whose intended value differs from its reset value. -/
def bootWrites (intended : CfgRegs) : List Instr :=
  (CfgReg.all.filter (fun r => intended.read r ≠ CfgRegs.reset.read r)).map (fun r => .cfgWr r.number (intended.read r))

/-- The boot of R280: configure, then register the decoders in the order their events should appear. Pulses come after it. -/
def bootSequence (intended : CfgRegs) (members : List DecoderId) : List Instr :=
  bootWrites intended ++ members.map Instr.dispReg

end Sys2Proof.Machine
end

