-- ==== Sys2Proof/Certificates/Slice0/Obligations.lean ====
section
/-! DEFINITION. The statements for the provers, family by family. They say what the numbered rules of spec/ say of the machine, in exact
integers and bits where the rules do, through `exec` and `step`. -/

open Sys2Proof Sys2Proof.Machine

/-! ## Encoding (30_encoding.md) -/

/-- Decoding what the encoder writes gives the operation back, whatever its operands (R80, R82, R85). -/
def Obligations.DecodeOfEncodeIsIdentity : Prop := ∀ i : Instr, decode (encode i) = .ok i

/-- Encoding what the decoder reads gives the header back, and every operand the operation uses (R80, R82). -/
def Obligations.EncodeOfDecodeKeepsUsedFields : Prop :=
  ∀ (r : ReqWord) (i : Instr), decode r = .ok i →
    reqHdr (encode i) = reqHdr r
    ∧ (i.op ∈ [Op.pulse, .gfcPulse, .a32Pulse, .p9Pulse, .ppmPulse] → encode i = r)
    ∧ (i.op ∈ [Op.a32Marshal, .a32Unmarshal, .p9Marshal, .cfgWr] → reqA (encode i) = reqA r)

/-- The header alone selects the operation: `A` and `B` never do (R80, R92). -/
def Obligations.HeaderAloneSelectsTheOperation : Prop :=
  ∀ r r' : ReqWord, reqHdr r = reqHdr r' →
    (decode r).toOption.map Instr.op = (decode r').toOption.map Instr.op

/-- No header is selected by two rows of the operation map (R87). -/
def Obligations.OperationMapRowsDoNotOverlap : Prop :=
  ∀ (hdr : BitVec 16) (r₁ r₂ : OpRow), r₁ ∈ opTable → r₂ ∈ opTable → r₁.selects hdr → r₂.selects hdr → r₁ = r₂

/-- A request is reserved exactly in the four cases R90 lists, and a reserved request is answered with ERR_ILLEGAL_OP, writes no register and emits nothing more
(R90, R242). -/
def Obligations.ReservedRequestsAreAnsweredIllegalOp : Prop :=
  (∀ r : ReqWord, (∃ e, decode r = .error e) ↔
    reqOp r ∉ [0x01, 0x02, 0x03, 0x10, 0x11, 0x12, 0x20, 0x21, 0x22, 0x30, 0x31]
    ∨ (reqOp r ∈ [0x01, 0x10, 0x12, 0x21, 0x22] ∧ reqSel r ≠ 0)
    ∨ (reqOp r ∈ [0x02, 0x03] ∧ 3 < (reqSel r).toNat)
    ∨ (reqOp r = 0x11 ∧ (reqSel r).extractLsb' 1 7 ≠ 0))
  ∧ ∀ (s : State) (r : ReqWord) (now : Time) (rest : List Input) (e : DecodeError),
      s.inputs = .request r now :: rest → decode r = .error e →
      ∃ t, step s = .next t ∧ RegistersKept s t ∧ t.now = now ∧ t.inputs = rest
        ∧ Emits s t [.response { status := .illegalOp, data := [] }]

/-- Words written out from the encodings of the spec (R104, 95_test_vectors.md) decode to what they stand for, and four reserved ones are refused: a sanity statement, one word or
more for each family. The names of the four refusals (`dstFlagReservedBits`, `noSuchDecoder`, `unassignedOp`, `selNotZero`) are the model's choice (log entry 14); the spec gives the four cases. -/
def Obligations.SpecWordsDecode : Prop :=
  decode 0x001E8480_007A1200_0001#80 = .ok (.pulse 8000000 2000000)
  ∧ decode 0x0016E360_0007A120_0002#80 = .ok (.gfcPulse 500000 1500000)
  ∧ decode 0x00225510_00895440_0102#80 = .ok (.a32Pulse 9000000 2250000)
  ∧ decode 0x001E8480_0007A120_0202#80 = .ok (.p9Pulse 500000 2000000)
  ∧ decode 0x0007A120_000F4240_0302#80 = .ok (.ppmPulse 1000000 500000)
  ∧ decode 0x00000000_00000000_0203#80 = .ok (.dispReg .p9)
  ∧ decode 0x00000000_56781234_0010#80 = .ok (.a32Marshal 0x56781234)
  ∧ decode 0x00000000_56781234_0011#80 = .ok (.a32Unmarshal false 0x56781234)
  ∧ decode 0x00000000_BEEF0042_0111#80 = .ok (.a32Unmarshal true 0xBEEF0042)
  ∧ decode 0x00000000_00000003_0012#80 = .ok (.p9Marshal 3)
  ∧ decode 0x00000000_00000000_FF20#80 = .ok (.ppmCh 255)
  ∧ decode 0x00000000_00000000_0021#80 = .ok .ppmChs
  ∧ decode 0x00000000_00000000_0022#80 = .ok .ppmStale
  ∧ decode 0x00000000_0016E360_2030#80 = .ok (.cfgWr 0x20 1500000)
  ∧ decode 0x00000000_00000000_2F31#80 = .ok (.cfgRd 0x2F)
  ∧ decode 0x00000000_00000000_0211#80 = .error (.dstFlagReservedBits 2)
  ∧ decode 0x00000000_00000000_0402#80 = .error (.noSuchDecoder 2 4)
  ∧ decode 0x00000000_00000000_0013#80 = .error (.unassignedOp 0x13)
  ∧ decode 0x00000000_00000000_0112#80 = .error (.selNotZero 0x12 1)

/-! ## The step -/

/-- A step with a request whose word decodes runs that operation, on the request's own `now` sample, with the request taken from the port
(R53, R81, R87). -/
def Obligations.StepRunsTheDecodedOperation : Prop :=
  ∀ (s : State) (w : ReqWord) (now : Time) (rest : List Input) (i : Instr),
    s.inputs = .request w now :: rest → decode w = .ok i → step s = exec i { s with now := now, inputs := rest }

/-- What `withFetchWord` presents is what the next step runs. The interface is the model's own (log entry 1). -/
def Obligations.PresentedWordIsRunNext : Prop :=
  ∀ (s : State) (nbits w : Nat) (i : Instr), decodeTableWord nbits w = some i → step (s.withFetchWord nbits w) = exec i s

/-- With nothing presented the block keeps all its state (R261; that such a step answers a next state is the model's choice, log entry 7). -/
def Obligations.IdleBlockKeepsItsState : Prop := ∀ s : State, s.inputs = [] → step s = .next s

/-- No operation and no input leaves the block in a fault or a refusal, in any state, and no run ever stops (R247 for the operations; R261 for the state with nothing presented). That a
step with nothing presented answers a next state, and so that a run goes on through it, is the model's choice (log entry 7). -/
def Obligations.EveryOperationCompletes : Prop :=
  (∀ (i : Instr) (s : State), ∃ t, exec i s = .next t)
  ∧ (∀ s : State, ∃ t, step s = .next t)
  ∧ ∀ (k : Nat) (s : State), SafeRun k s

/-! ## Reset (70_reset_and_hazards.md) -/

/-- `State.reset` holds the reset value of every register (R271, R40). -/
def Obligations.ResetStateHoldsTheResetValues : Prop := ResetValues State.reset

/-- The reset input gives every register its reset value, whatever the state; it withdraws nothing from the streams, appends nothing to them and has no response (R270, R271,
R272). -/
def Obligations.ResetInputRestoresEveryRegister : Prop :=
  ∀ (s : State) (rest : List Input), s.inputs = .reset :: rest →
    ∃ t, step s = .next t ∧ ResetValues t ∧ t.out = s.out ∧ t.inputs = rest

/-- Right after reset PPM.STALE returns 1, whatever `now` is, and PULSE steps no decoder (R273). -/
def Obligations.RightAfterResetStaleAndNoMember : Prop :=
  ∀ s : State, ResetValues s →
    (∃ t, exec .ppmStale s = .next t ∧ NoRegisterWritten s t ∧ Emits s t [.response { status := .ok, data := [1] }])
    ∧ ∀ on off, ∃ t, exec (.pulse on off) s = .next t ∧ NoRegisterWritten s t ∧ Emits s t [okResponse]

/-- The invariants hold after reset (R28, R271). -/
def Obligations.ResetStateMeetsTheInvariants : Prop := State.reset.Inv

/-- Every step keeps the invariants, from every state that meets them: counters and indices stay in range, accumulator bits at or above the counter stay 0, the
parity flag stays the XOR of the accumulator's bits, `PPM_TICK` and `PPM_NCH` stay legal (R28, R232); and the reset input establishes them, from every state at all. -/
def Obligations.StepKeepsTheInvariants : Prop :=
  (∀ s t : State, s.Inv → step s = .next t → t.Inv)
  ∧ ∀ (s t : State) (rest : List Input), s.inputs = .reset :: rest → step s = .next t → t.Inv

/-! ## The whole machine -/

/-- Every operation ends with exactly one response, the last thing it puts out; its data is empty unless the status is OK (R52). -/
def Obligations.EveryOperationEndsWithOneResponse : Prop :=
  ∀ (i : Instr) (s : State), ∃ t os r, exec i s = .next t ∧ Emits s t (os ++ [.response r])
    ∧ (∀ o ∈ os, ∀ r', o ≠ .response r') ∧ (r.status ≠ .ok → r.data = [])

/-- An operation that answers a status other than OK has no other effect: no register written, nothing emitted but the response, no data (R241). -/
def Obligations.FailedOperationHasNoOtherEffect : Prop :=
  ∀ (i : Instr) (s : State), ∃ t r, exec i s = .next t ∧ t.out.getLast? = some (.response r)
    ∧ (r.status ≠ .ok → NoRegisterWritten s t ∧ Emits s t [.response r] ∧ r.data = [])

/-- Each error status comes from its own operation only, and none from a pulse operation (R243, R244). -/
def Obligations.EachErrorComesFromItsOwnOperation : Prop :=
  ∀ (i : Instr) (s : State), ∃ t r, exec i s = .next t ∧ t.out.getLast? = some (.response r)
    ∧ (r.status = .nullDest → ∃ w, i = .a32Unmarshal false w)
    ∧ (r.status = .badChannel → ∃ n, i = .ppmCh n)
    ∧ (r.status = .dispFull → ∃ id, i = .dispReg id)
    ∧ (r.status = .badReg → ∃ n, i = .cfgRd n ∨ ∃ v, i = .cfgWr n v)
    ∧ (r.status = .badValue → ∃ n v, i = .cfgWr n v)
    ∧ (r.status = .badOperand → ∃ w, i = .p9Marshal w)
    ∧ r.status ≠ .illegalOp

/-- A pulse operation always answers OK, and puts out nothing before that but events (R245, R51). -/
def Obligations.PulseOperationsAlwaysAnswerOk : Prop :=
  ∀ (i : Instr) (s : State), (pulsePair? i).isSome →
    ∃ t, exec i s = .next t ∧ ∃ es : List Event, Emits s t (es.map .event ++ [okResponse])

/-- A decoder's registers are written only by that decoder's own step, run directly or as a member of PULSE; the dispatcher's only by DISP.REG; a configuration register
only by CFG.WR (R29, R44). -/
def Obligations.OperationsWriteOnlyTheirOwnRegisters : Prop :=
  ∀ (i : Instr) (s : State), ∃ t, exec i s = .next t ∧ SamePorts s t
    ∧ (t.gfc ≠ s.gfc → ∃ on off, i = .gfcPulse on off ∨ (i = .pulse on off ∧ .gfc ∈ s.disp.list.toList.take s.disp.len.toNat))
    ∧ (t.a32 ≠ s.a32 → ∃ on off, i = .a32Pulse on off ∨ (i = .pulse on off ∧ .a32 ∈ s.disp.list.toList.take s.disp.len.toNat))
    ∧ (t.p9 ≠ s.p9 → ∃ on off, i = .p9Pulse on off ∨ (i = .pulse on off ∧ .p9 ∈ s.disp.list.toList.take s.disp.len.toNat))
    ∧ (t.ppm ≠ s.ppm → ∃ on off, i = .ppmPulse on off ∨ (i = .pulse on off ∧ .ppm ∈ s.disp.list.toList.take s.disp.len.toNat))
    ∧ (t.disp ≠ s.disp → ∃ id, i = .dispReg id)
    ∧ (t.cfg ≠ s.cfg → ∃ n v, i = .cfgWr n v)

/-- A decoder step reads no other decoder's registers: two states that agree on the decoder's own registers and the configuration (and on `now`, for PPM) agree on them
after the step, and on what the step puts out (R29). -/
def Obligations.DecoderStepReadsOnlyItsOwnRegisters : Prop :=
  ∀ (s s' : State) (on off : Dur), s.cfg = s'.cfg →
    (s.gfc = s'.gfc → ∃ t t' os, exec (.gfcPulse on off) s = .next t ∧ exec (.gfcPulse on off) s' = .next t'
      ∧ t.gfc = t'.gfc ∧ Emits s t os ∧ Emits s' t' os)
    ∧ (s.a32 = s'.a32 → ∃ t t' os, exec (.a32Pulse on off) s = .next t ∧ exec (.a32Pulse on off) s' = .next t'
      ∧ t.a32 = t'.a32 ∧ Emits s t os ∧ Emits s' t' os)
    ∧ (s.p9 = s'.p9 → ∃ t t' os, exec (.p9Pulse on off) s = .next t ∧ exec (.p9Pulse on off) s' = .next t'
      ∧ t.p9 = t'.p9 ∧ Emits s t os ∧ Emits s' t' os)
    ∧ (s.ppm = s'.ppm → s.now = s'.now → ∃ t t' os, exec (.ppmPulse on off) s = .next t ∧ exec (.ppmPulse on off) s' = .next t'
      ∧ t.ppm = t'.ppm ∧ Emits s t os ∧ Emits s' t' os)

/-- The time sample matters to no operation but the PPM ones and PULSE (R257, R296). -/
def Obligations.TimeMattersOnlyToPpmOperations : Prop :=
  ∀ (i : Instr) (s : State) (n : Time), i.op ∉ [Op.pulse, .ppmPulse, .ppmCh, .ppmChs, .ppmStale] →
    ∃ t, exec i s = .next t ∧ exec i { s with now := n } = .next { t with now := n }

/-- Only the reset input clears `ppm_synced` (R30, R182). -/
def Obligations.OnlyResetClearsSynced : Prop :=
  ∀ s t : State, step s = .next t → s.ppm.synced = true → t.ppm.synced = false → ∃ rest, s.inputs = .reset :: rest

/-- No step withdraws anything from an output stream: what has been put out stays, in its order (R20, R50, R51, R272). -/
def Obligations.OutputsAreNeverWithdrawn : Prop := ∀ s t : State, step s = .next t → ∃ os, t.out = s.out ++ os

/-- The work of one operation is bounded: at most 34 transmitted pairs, 8 events and 16 result words (R17, R295). -/
def Obligations.WorkOfOneOperationIsBounded : Prop :=
  ∀ (i : Instr) (s : State), ∃ t os r, exec i s = .next t ∧ Emits s t (os ++ [.response r])
    ∧ (os.filterMap Output.tx?).length ≤ 34 ∧ (os.filterMap Output.event?).length ≤ 8 ∧ r.data.length ≤ 16

/-- CFG.RD, PPM.CH, PPM.CHS and PPM.STALE write nothing, and the same read again at the same `now` gives the same response (R68). -/
def Obligations.ReadsHaveNoSideEffectAndRepeat : Prop :=
  ∀ (i : Instr) (s : State), i.op ∈ [Op.cfgRd, .ppmCh, .ppmChs, .ppmStale] →
    ∃ t r, exec i s = .next t ∧ NoRegisterWritten s t ∧ Emits s t [.response r]
      ∧ ∃ t', exec i t = .next t' ∧ NoRegisterWritten t t' ∧ Emits t t' [.response r]

/-- An operand bus an operation does not use has no effect (R82): requests that differ only there have the same effect. -/
def Obligations.UnusedOperandsAreIgnored : Prop :=
  ∀ (s : State) (r r' : ReqWord) (now : Time) (rest : List Input) (i : Instr), decode r = .ok i → reqHdr r = reqHdr r' →
    (i.op ∈ [Op.dispReg, .ppmCh, .ppmChs, .ppmStale, .cfgRd] →
      step { s with inputs := .request r now :: rest } = step { s with inputs := .request r' now :: rest })
    ∧ (i.op ∈ [Op.a32Marshal, .a32Unmarshal, .p9Marshal, .cfgWr] → reqA r = reqA r' →
      step { s with inputs := .request r now :: rest } = step { s with inputs := .request r' now :: rest })

/-! ## GFC (41_generic_fixed_code.md) -/

/-- A start marker clears the accumulator and the counter in every decoder state and emits nothing (R111). -/
def Obligations.GfcStartMarkerClears : Prop :=
  ∀ (s : State) (on off : Dur), s.cfg.gfcStartAssert.toNat < on.toNat →
    ∃ t, exec (.gfcPulse on off) s = .next t ∧ t.gfc.acc = 0 ∧ t.gfc.cnt = 0 ∧ OnlyGfcWritten s t ∧ Emits s t [okResponse]

/-- A clamped decoder ignores every pulse that is no start marker (R112). -/
def Obligations.GfcClampedIgnoresDataPulses : Prop :=
  ∀ (s : State) (on off : Dur), on.toNat ≤ s.cfg.gfcStartAssert.toNat → s.gfc.cnt.toNat = 10 →
    ∃ t, exec (.gfcPulse on off) s = .next t ∧ NoRegisterWritten s t ∧ Emits s t [okResponse]

/-- A data pulse writes its bit, 1 exactly when the deassert duration is above the threshold, at the counter's position and counts up; the tenth emits the one event with the accumulated value
(R113, R114, R115). -/
def Obligations.GfcDataPulseAppendsItsBit : Prop :=
  ∀ (s : State) (on off : Dur), on.toNat ≤ s.cfg.gfcStartAssert.toNat → s.gfc.cnt.toNat < 10 →
    ∃ t, exec (.gfcPulse on off) s = .next t ∧ OnlyGfcWritten s t
      ∧ t.gfc.cnt.toNat = s.gfc.cnt.toNat + 1
      ∧ (∀ k, k < 10 → t.gfc.acc.getLsbD k
          = if k = s.gfc.cnt.toNat then decide (s.cfg.gfcOneDeassert.toNat < off.toNat) else s.gfc.acc.getLsbD k)
      ∧ Emits s t ((if s.gfc.cnt.toNat = 9 then [.event { kind := .gfc, payload := t.gfc.acc.setWidth 32 }] else []) ++ [okResponse])

/-- After a start marker the accumulator and the counter are zero, and ten data pulses then yield exactly one event, with the bits of the ten pulses in order (R119). -/
def Obligations.GfcTenPulsesYieldOneEvent : Prop :=
  ∀ (s : State) (on off : Dur) (d : Fin 10 → PulsePair) (now : Time) (rest : List Input),
    s.cfg.gfcStartAssert.toNat < on.toNat → (∀ k, (d k).on.toNat ≤ s.cfg.gfcStartAssert.toNat) →
    s.inputs = requestsAt now (.gfcPulse on off :: (List.finRange 10).map (fun k => .gfcPulse (d k).on (d k).off)) ++ rest →
    (∃ u, step s = .next u ∧ u.gfc.acc = 0 ∧ u.gfc.cnt = 0)
    ∧ ∃ (t : State) (v : Word), Host.Core.run Sys2Proof.core 11 s = .next t ∧ t.events = s.events ++ [{ kind := .gfc, payload := v }]
      ∧ (∀ k : Fin 10, v.getLsbD k = decide (s.cfg.gfcOneDeassert.toNat < (d k).off.toNat))
      ∧ ∀ k, 10 ≤ k → v.getLsbD k = false

/-! ## A32 (42_addressed32.md) -/

/-- A pulse of the repeat band changes no register and emits nothing, whatever its assert duration; the band is tested first (R131, R134). -/
def Obligations.A32RepeatBandIsIgnored : Prop :=
  ∀ (s : State) (on off : Dur), s.cfg.a32IgnoreDeassert.toNat < off.toNat →
    ∃ t, exec (.a32Pulse on off) s = .next t ∧ NoRegisterWritten s t ∧ Emits s t [okResponse]

/-- A pulse of the start band clears the decoder if its assert duration is above the start threshold and is dropped if it is not (R132, R133). -/
def Obligations.A32StartBandClearsOrDrops : Prop :=
  ∀ (s : State) (on off : Dur), off.toNat ≤ s.cfg.a32IgnoreDeassert.toNat → s.cfg.a32StartDeassert.toNat < off.toNat →
    (s.cfg.a32StartAssert.toNat < on.toNat → ∃ t, exec (.a32Pulse on off) s = .next t
      ∧ t.a32.acc = 0 ∧ t.a32.cnt = 0 ∧ OnlyA32Written s t ∧ Emits s t [okResponse])
    ∧ (on.toNat ≤ s.cfg.a32StartAssert.toNat → ∃ t, exec (.a32Pulse on off) s = .next t
      ∧ NoRegisterWritten s t ∧ Emits s t [okResponse])

/-- A pulse in neither band writes its bit, 1 exactly when the ASSERT duration is above the threshold, at the counter's position and counts up; the 32nd emits the one event with the word; a
clamped decoder ignores it (R135, R136, R137). -/
def Obligations.A32DataPulseAppendsItsBitOrIsClamped : Prop :=
  ∀ (s : State) (on off : Dur), off.toNat ≤ s.cfg.a32IgnoreDeassert.toNat → off.toNat ≤ s.cfg.a32StartDeassert.toNat →
    (s.a32.cnt.toNat < 32 → ∃ t, exec (.a32Pulse on off) s = .next t ∧ OnlyA32Written s t
      ∧ t.a32.cnt.toNat = s.a32.cnt.toNat + 1
      ∧ (∀ k, k < 32 → t.a32.acc.getLsbD k
          = if k = s.a32.cnt.toNat then decide (s.cfg.a32OneAssert.toNat < on.toNat) else s.a32.acc.getLsbD k)
      ∧ Emits s t ((if s.a32.cnt.toNat = 31 then [.event { kind := .a32, payload := t.a32.acc }] else []) ++ [okResponse]))
    ∧ (s.a32.cnt.toNat = 32 → ∃ t, exec (.a32Pulse on off) s = .next t ∧ NoRegisterWritten s t ∧ Emits s t [okResponse])

/-- A32.MARSHAL emits 34 pairs: the start pair, the pair of each bit from bit 0 on, the terminating zero pair; it writes no register (R140). -/
def Obligations.A32MarshalEmitsThirtyFourPairs : Prop :=
  ∀ (s : State) (w : Word), ∃ (t : State) (ps : List PulsePair), exec (.a32Marshal w) s = .next t ∧ NoRegisterWritten s t
    ∧ Emits s t (ps.map .tx ++ [okResponse]) ∧ ps.length = 34
    ∧ ps[0]? = some { on := s.cfg.a32TxStartA, off := s.cfg.a32TxStartS }
    ∧ (∀ k, k < 32 → ps[k + 1]? = some (if w.getLsbD k then { on := s.cfg.a32TxOneA, off := s.cfg.a32TxOneS }
        else { on := s.cfg.a32TxZeroA, off := s.cfg.a32TxZeroS }))
    ∧ ps[33]? = some { on := s.cfg.a32TxZeroA, off := s.cfg.a32TxZeroS }

/-- The round-trip law: the pairs that A32.MARSHAL of `w` puts out, fed to the A32 decoder in order from any decoder state, yield exactly one event, with `w`; the reset
configuration meets the conditions (R142). -/
def Obligations.A32MarshalledFrameDecodesToItself : Prop :=
  A32RoundTripConfig CfgRegs.reset
  ∧ ∀ (s u : State) (w : Word) (ps : List PulsePair) (now : Time) (rest : List Input), A32RoundTripConfig s.cfg →
      exec (.a32Marshal w) s = .next u → u.txPairs = s.txPairs ++ ps →
      s.inputs = requestsAt now (ps.map (fun p => .a32Pulse p.on p.off)) ++ rest →
      ∃ t : State, Host.Core.run Sys2Proof.core 34 s = .next t ∧ t.events = s.events ++ [{ kind := .a32, payload := w }]
        ∧ t.a32.acc = w ∧ t.a32.cnt.toNat = 32

/-- A32.UNMARSHAL answers the address and the command where a destination is present, and ERR_NULL_DEST with no data where it is absent; it writes nothing (R145, R146). -/
def Obligations.A32UnmarshalSplitsTheWordOrReportsNullDest : Prop :=
  ∀ (s : State) (w : Word),
    (∃ t a c, exec (.a32Unmarshal true w) s = .next t ∧ NoRegisterWritten s t
      ∧ Emits s t [.response { status := .ok, data := [a, c] }]
      ∧ a.toNat = w.toNat % 65536 ∧ c.toNat = w.toNat / 65536)
    ∧ ∃ t, exec (.a32Unmarshal false w) s = .next t ∧ NoRegisterWritten s t
      ∧ Emits s t [.response { status := .nullDest, data := [] }]

/-! ## P9 (43_parity9.md) -/

/-- A start marker clears the accumulator, the counter and the parity flag, whatever the assert duration, and emits nothing (R161). -/
def Obligations.P9StartMarkerClears : Prop :=
  ∀ (s : State) (on off : Dur), s.cfg.p9StartDeassert.toNat < off.toNat →
    ∃ t, exec (.p9Pulse on off) s = .next t ∧ t.p9.acc = 0 ∧ t.p9.cnt = 0 ∧ t.p9.par = false
      ∧ OnlyP9Written s t ∧ Emits s t [okResponse]

/-- A data pulse carries 1 exactly when its deassert duration is above the threshold; a 1 is written at the counter's position and inverts the parity flag; every data pulse counts up; the ninth ends the
frame: the event if the flag is then set, nothing if not, and all three registers cleared (R162, R163, R164). -/
def Obligations.P9DataPulseAppendsItsBitOrEndsTheFrame : Prop :=
  ∀ (s : State) (on off : Dur), off.toNat ≤ s.cfg.p9StartDeassert.toNat →
    (s.p9.cnt.toNat < 8 → ∃ t, exec (.p9Pulse on off) s = .next t ∧ OnlyP9Written s t
      ∧ t.p9.cnt.toNat = s.p9.cnt.toNat + 1
      ∧ (∀ k, k < 9 → t.p9.acc.getLsbD k = if k = s.p9.cnt.toNat ∧ s.cfg.p9OneDeassert.toNat < off.toNat then true
          else s.p9.acc.getLsbD k)
      ∧ t.p9.par = (s.p9.par ^^ decide (s.cfg.p9OneDeassert.toNat < off.toNat))
      ∧ Emits s t [okResponse])
    ∧ (s.p9.cnt.toNat = 8 → ∃ t, exec (.p9Pulse on off) s = .next t ∧ OnlyP9Written s t
      ∧ t.p9.acc = 0 ∧ t.p9.cnt = 0 ∧ t.p9.par = false
      ∧ Emits s t ((if (s.p9.par ^^ decide (s.cfg.p9OneDeassert.toNat < off.toNat))
          then [.event { kind := .p9, payload := (s.p9.acc.setWidth 8).setWidth 32 }] else []) ++ [okResponse]))

/-- After a start marker, nine data pulses yield exactly one event, with the eight data bits, if the number of ones among the nine is odd, and none if it is even; the decoder is then clear
(R165, R168). -/
def Obligations.P9FrameIsDeliveredExactlyWhenItsParityIsOdd : Prop :=
  ∀ (s : State) (on off : Dur) (d : Fin 9 → PulsePair) (now : Time) (rest : List Input),
    s.cfg.p9StartDeassert.toNat < off.toNat → (∀ k, (d k).off.toNat ≤ s.cfg.p9StartDeassert.toNat) →
    s.inputs = requestsAt now (.p9Pulse on off :: (List.finRange 9).map (fun k => .p9Pulse (d k).on (d k).off)) ++ rest →
    ∃ (t : State) (v : Word), Host.Core.run Sys2Proof.core 10 s = .next t
      ∧ t.p9.acc = 0 ∧ t.p9.cnt = 0 ∧ t.p9.par = false
      ∧ t.events = s.events ++ (if ((List.finRange 9).countP (fun k => decide (s.cfg.p9OneDeassert.toNat < (d k).off.toNat))) % 2 = 1
          then [{ kind := .p9, payload := v }] else [])
      ∧ (∀ k : Fin 8, v.getLsbD k = decide (s.cfg.p9OneDeassert.toNat < (d ⟨k, by omega⟩).off.toNat))
      ∧ ∀ k, 8 ≤ k → v.getLsbD k = false

/-- P9.MARSHAL of a byte emits ten pairs: the start pair, the pair of each data bit from bit 0 on, and the parity pair, a 1 exactly when the byte has an even number of ones; a value above 8
bits is refused with ERR_BAD_OPERAND and nothing is emitted; no register is written (R170, R172, R173). -/
def Obligations.P9MarshalEmitsTenPairsOrBadOperand : Prop :=
  ∀ (s : State) (w : Word),
    (w.toNat < 256 → ∃ (t : State) (ps : List PulsePair), exec (.p9Marshal w) s = .next t ∧ NoRegisterWritten s t
      ∧ Emits s t (ps.map .tx ++ [okResponse]) ∧ ps.length = 10
      ∧ ps[0]? = some { on := s.cfg.p9TxStartA, off := s.cfg.p9TxStartS }
      ∧ (∀ k, k < 8 → ps[k + 1]? = some (if w.getLsbD k then { on := s.cfg.p9TxOneA, off := s.cfg.p9TxOneS }
          else { on := s.cfg.p9TxZeroA, off := s.cfg.p9TxZeroS }))
      ∧ ps[9]? = some (if (List.range 8).countP (fun k => w.getLsbD k) % 2 = 0
          then { on := s.cfg.p9TxOneA, off := s.cfg.p9TxOneS } else { on := s.cfg.p9TxZeroA, off := s.cfg.p9TxZeroS }))
    ∧ (256 ≤ w.toNat → ∃ t, exec (.p9Marshal w) s = .next t ∧ NoRegisterWritten s t
      ∧ Emits s t [.response { status := .badOperand, data := [] }])

/-- The round trip: the pairs that P9.MARSHAL of a byte puts out, fed to the P9 decoder in order from any decoder state, yield exactly one event, with that byte; the reset
configuration meets the conditions (R174). -/
def Obligations.P9MarshalledFrameDecodesToItself : Prop :=
  P9RoundTripConfig CfgRegs.reset
  ∧ ∀ (s u : State) (w : Word) (ps : List PulsePair) (now : Time) (rest : List Input), P9RoundTripConfig s.cfg → w.toNat < 256 →
      exec (.p9Marshal w) s = .next u → u.txPairs = s.txPairs ++ ps →
      s.inputs = requestsAt now (ps.map (fun p => .p9Pulse p.on p.off)) ++ rest →
      ∃ t : State, Host.Core.run Sys2Proof.core 10 s = .next t ∧ t.events = s.events ++ [{ kind := .p9, payload := w }]

/-! ## PPM (44_proportional.md) -/

/-- A synchronization marker takes the operation's `now`, resets the channel index and sets the flag, in every state; every channel value stays (R181). -/
def Obligations.PpmMarkerRecordsTheTime : Prop :=
  ∀ (s : State) (on off : Dur), s.cfg.ppmSyncAssert.toNat < on.toNat →
    ∃ t, exec (.ppmPulse on off) s = .next t ∧ t.ppm.last = s.now ∧ t.ppm.idx = 0 ∧ t.ppm.synced = true ∧ t.ppm.ch = s.ppm.ch
      ∧ OnlyPpmWritten s t ∧ Emits s t [okResponse]

/-- A pulse that is no marker changes nothing before the first marker, nor when the index has reached the configured count (R182, R183). -/
def Obligations.PpmPulseIsDroppedUnsyncedOrAtCapacity : Prop :=
  ∀ (s : State) (on off : Dur), on.toNat ≤ s.cfg.ppmSyncAssert.toNat →
    (s.ppm.synced = false ∨ s.cfg.ppmNch.toNat ≤ s.ppm.idx.toNat) →
    ∃ t, exec (.ppmPulse on off) s = .next t ∧ NoRegisterWritten s t ∧ Emits s t [okResponse]

/-- A channel pulse stores the exact sum of its durations, rounded to the nearest multiple of the tick with a half rounded up and saturated at 2^32-1, at the channel index, and counts
the index up; no other channel changes (R184, R186). -/
def Obligations.PpmChannelPulseStoresTheRoundedSum : Prop :=
  ∀ (s : State) (on off : Dur), on.toNat ≤ s.cfg.ppmSyncAssert.toNat → s.ppm.synced = true →
    s.ppm.idx.toNat < s.cfg.ppmNch.toNat → s.cfg.ppmNch.toNat ≤ 16 → 1 ≤ s.cfg.ppmTick.toNat →
    ∃ t v q, exec (.ppmPulse on off) s = .next t
      ∧ (∀ k : Fin 16, t.ppm.ch[k] = if k.val = s.ppm.idx.toNat then v else s.ppm.ch[k])
      ∧ 2 * (q * s.cfg.ppmTick.toNat) ≤ 2 * (on.toNat + off.toNat) + s.cfg.ppmTick.toNat
      ∧ 2 * (on.toNat + off.toNat) + s.cfg.ppmTick.toNat < 2 * (q * s.cfg.ppmTick.toNat) + 2 * s.cfg.ppmTick.toNat
      ∧ v.toNat = min (q * s.cfg.ppmTick.toNat) (2 ^ 32 - 1)
      ∧ t.ppm.idx.toNat = s.ppm.idx.toNat + 1 ∧ t.ppm.last = s.ppm.last ∧ t.ppm.synced = true
      ∧ OnlyPpmWritten s t ∧ Emits s t [okResponse]

/-- PPM.STALE answers 1 exactly when no marker has been seen or more than the timeout has elapsed since the latest, modulo 2^64, and 0 otherwise (R185, R194). -/
def Obligations.PpmStaleAnswersTheStaleness : Prop :=
  ∀ s : State, ∃ t b, exec .ppmStale s = .next t ∧ NoRegisterWritten s t ∧ Emits s t [.response { status := .ok, data := [b] }]
    ∧ (StaleAt s.cfg s.ppm s.now → b = 1) ∧ (¬ StaleAt s.cfg s.ppm s.now → b = 0)

/-- PPM.CH of a configured channel answers the live value, or the safe value where the decoder is stale; of any other number it answers ERR_BAD_CHANNEL; it writes nothing
(R190). -/
def Obligations.PpmChAnswersLiveSafeOrBadChannel : Prop :=
  ∀ (s : State) (n : BitVec 8),
    (n.toNat < s.cfg.ppmNch.toNat → s.cfg.ppmNch.toNat ≤ 16 → ∃ t v, exec (.ppmCh n) s = .next t ∧ NoRegisterWritten s t
      ∧ Emits s t [.response { status := .ok, data := [v] }]
      ∧ (StaleAt s.cfg s.ppm s.now → s.cfg.ppmSafe[n.toNat]? = some v)
      ∧ (¬ StaleAt s.cfg s.ppm s.now → s.ppm.ch[n.toNat]? = some v))
    ∧ (s.cfg.ppmNch.toNat ≤ n.toNat → ∃ t, exec (.ppmCh n) s = .next t ∧ NoRegisterWritten s t
      ∧ Emits s t [.response { status := .badChannel, data := [] }])

/-- PPM.CHS answers exactly the configured number of words, all safe where the decoder is stale and all live where it is not; it writes nothing (R192). -/
def Obligations.PpmChsAnswersAllLiveOrAllSafe : Prop :=
  ∀ s : State, s.cfg.ppmNch.toNat ≤ 16 → ∃ t vs, exec .ppmChs s = .next t ∧ NoRegisterWritten s t
    ∧ Emits s t [.response { status := .ok, data := vs }] ∧ vs.length = s.cfg.ppmNch.toNat
    ∧ (StaleAt s.cfg s.ppm s.now → ∀ k, k < vs.length → vs[k]? = s.cfg.ppmSafe[k]?)
    ∧ (¬ StaleAt s.cfg s.ppm s.now → ∀ k, k < vs.length → vs[k]? = s.ppm.ch[k]?)

/-- Before any marker a channel pulse changes no channel value. After a marker and channel pulses, PPM.CH of a channel they reached answers the value its pulse decoded to as long as
no more than the timeout has elapsed since the marker, and the channel's safe value once more has, with no new marker (R189). -/
def Obligations.PpmChannelReadFallsBackAfterTheTimeout : Prop :=
  ∀ (s : State) (m : PulsePair) (ps : List PulsePair) (i : Fin 16) (p : PulsePair) (t₀ t₁ t₂ : Time), s.Inv →
    s.cfg.ppmSyncAssert.toNat < m.on.toNat → (∀ d ∈ ps, d.on.toNat ≤ s.cfg.ppmSyncAssert.toNat) →
    ps.length ≤ s.cfg.ppmNch.toNat → ps[i.val]? = some p → t₀.toNat ≤ t₂.toNat →
    (s.ppm.synced = false → ∃ u, exec (.ppmPulse p.on p.off) s = .next u ∧ u.ppm.ch = s.ppm.ch)
    ∧ (s.inputs = .request (encode (.ppmPulse m.on m.off)) t₀ :: (requestsAt t₁ (ps.map (fun d => .ppmPulse d.on d.off))
          ++ [.request (encode (.ppmCh (BitVec.ofNat 8 i.val))) t₂]) →
      ∃ (u : State) (v : Word), Host.Core.run Sys2Proof.core (ps.length + 2) s = .next u
        ∧ u.out = s.out ++ List.replicate (ps.length + 1) okResponse ++ [.response { status := .ok, data := [v] }]
        ∧ u.ppm.ch[i] = channelValue s.cfg p.on p.off
        ∧ (t₂.toNat - t₀.toNat ≤ s.cfg.ppmTimeout.toNat → v = u.ppm.ch[i])
        ∧ (s.cfg.ppmTimeout.toNat < t₂.toNat - t₀.toNat → v = s.cfg.ppmSafe[i]))

/-- Where the host keeps its duty that `now` never decreases, the latest marker is never in the future of the current sample: an invariant of every step (R53, R285). -/
def Obligations.LatestMarkerIsNeverInTheFuture : Prop :=
  ∀ s t : State, s.ppm.last.toNat ≤ s.now.toNat → NowMono s.inputs → (∀ n ∈ requestTimes s.inputs, s.now.toNat ≤ n.toNat) →
    step s = .next t →
    t.ppm.last.toNat ≤ t.now.toNat ∧ NowMono t.inputs ∧ ∀ n ∈ requestTimes t.inputs, t.now.toNat ≤ n.toNat

/-! ## Dispatcher (45_dispatcher.md) -/

/-- PULSE has exactly the effect of the members' own operations one after another, in list order, on the same pair and the same `now`, with one response at the end (R210, R211, R212). -/
def Obligations.PulseStepsTheMembersInListOrder : Prop :=
  ∀ (s : State) (on off : Dur), ∃ t u es, exec (.pulse on off) s = .next t
    ∧ execAll ((s.disp.list.toList.take s.disp.len.toNat).map (fun id => pulseOpOf id on off)) s = .next u
    ∧ RegistersKept u t ∧ SamePorts s t
    ∧ Emits s t (es.map .event ++ [okResponse]) ∧ u.events = s.events ++ es

/-- DISP.REG appends the decoder id at the end of the list and writes nothing else; on a list of 8 it answers ERR_DISP_FULL and changes nothing (R215). -/
def Obligations.DispRegAppendsOrReportsFull : Prop :=
  ∀ (s : State) (id : DecoderId),
    (s.disp.len.toNat < 8 → ∃ t, exec (.dispReg id) s = .next t ∧ OnlyDispWritten s t ∧ Emits s t [okResponse]
      ∧ t.disp.len.toNat = s.disp.len.toNat + 1
      ∧ ∀ k : Fin 8, t.disp.list[k] = if k.val = s.disp.len.toNat then id else s.disp.list[k])
    ∧ (s.disp.len.toNat = 8 → ∃ t, exec (.dispReg id) s = .next t ∧ NoRegisterWritten s t
      ∧ Emits s t [.response { status := .dispFull, data := [] }])

/-- Registering two decoders on an empty list and feeding one pulse pair steps the first once and then the second once (R217). -/
def Obligations.TwoRegisteredDecodersAreEachSteppedOnce : Prop :=
  ∀ (s : State) (x y : DecoderId) (on off : Dur), s.disp.len = 0 →
    ∃ t u, execAll [.dispReg x, .dispReg y, .pulse on off] s = .next t
      ∧ execAll [pulseOpOf x on off, pulseOpOf y on off] s = .next u
      ∧ t.gfc = u.gfc ∧ t.a32 = u.a32 ∧ t.p9 = u.p9 ∧ t.ppm = u.ppm ∧ t.events = u.events

/-! ## Configuration (46_config.md) -/

/-- CFG.RD and CFG.WR of a reserved number answer ERR_BAD_REG, write nothing and return no data (R230). -/
def Obligations.ReservedRegisterNumbersAnswerBadReg : Prop :=
  ∀ (s : State) (n : BitVec 8) (v : Word), ReservedCfgNumber n →
    (∃ t, exec (.cfgRd n) s = .next t ∧ NoRegisterWritten s t ∧ Emits s t [.response { status := .badReg, data := [] }])
    ∧ ∃ t, exec (.cfgWr n v) s = .next t ∧ NoRegisterWritten s t ∧ Emits s t [.response { status := .badReg, data := [] }]

/-- CFG.WR of 0 to `PPM_TICK`, or of a value outside 1..16 to `PPM_NCH`, answers ERR_BAD_VALUE and changes nothing; every other value of every register that is not reserved is accepted (R232). -/
def Obligations.OnlyIllegalValuesAnswerBadValue : Prop :=
  ∀ (s : State) (n : BitVec 8) (v : Word), ¬ ReservedCfgNumber n →
    (IllegalCfgValue n v → ∃ t, exec (.cfgWr n v) s = .next t ∧ NoRegisterWritten s t
      ∧ Emits s t [.response { status := .badValue, data := [] }])
    ∧ (¬ IllegalCfgValue n v → ∃ t, exec (.cfgWr n v) s = .next t ∧ OnlyCfgWritten s t ∧ Emits s t [okResponse])

/-- After a CFG.WR of a legal value, CFG.RD of that register answers the value, and CFG.RD of every other register answers what it answered before (R42, R231). -/
def Obligations.CfgWriteIsReadBackAndWritesNothingElse : Prop :=
  ∀ (s : State) (n m : BitVec 8) (v : Word), ¬ ReservedCfgNumber n → ¬ IllegalCfgValue n v → ¬ ReservedCfgNumber m →
    ∃ t u u' x, exec (.cfgWr n v) s = .next t ∧ OnlyCfgWritten s t
      ∧ exec (.cfgRd m) s = .next u ∧ Emits s u [.response { status := .ok, data := [x] }]
      ∧ exec (.cfgRd m) t = .next u' ∧ NoRegisterWritten t u'
      ∧ Emits t u' [.response { status := .ok, data := [if m = n then v else x] }]

/-- CFG.RD of each number of the register map answers the register of that number (R40, R233). -/
def Obligations.CfgReadAnswersTheNumberedRegister : Prop :=
  ∀ (s : State) (p : BitVec 8 × Word),
    p ∈ cfgRegisterMap s.cfg →
    ∃ t, exec (.cfgRd p.1) s = .next t ∧ NoRegisterWritten s t ∧ Emits s t [.response { status := .ok, data := [p.2] }]

/-- The boot of R280, run on a block that holds its reset values, answers OK throughout and leaves the intended configuration and the intended members, with no decoder stepped. -/
def Obligations.BootEstablishesConfigurationAndMembers : Prop :=
  ∀ (s : State) (intended : CfgRegs) (members : List DecoderId), s.cfg = CfgRegs.reset → s.disp = DispRegs.reset →
    1 ≤ intended.ppmTick.toNat → 1 ≤ intended.ppmNch.toNat → intended.ppmNch.toNat ≤ 16 → members.length ≤ 8 →
    ∃ t, execAll (bootSequence intended members) s = .next t ∧ t.cfg = intended
      ∧ t.disp.list.toList.take t.disp.len.toNat = members
      ∧ t.gfc = s.gfc ∧ t.a32 = s.a32 ∧ t.p9 = s.p9 ∧ t.ppm = s.ppm ∧ SamePorts s t
      ∧ Emits s t (List.replicate (bootSequence intended members).length okResponse)

/-! ## Assembler (30_encoding.md) -/

/-- Lines of the spec's programs assemble to the operations they stand for, with their `now` (R100 to R103): a sanity statement. -/
def Obligations.SpecLinesAssemble : Prop :=
  asmLine? "@1000000000 A32.MARSHAL 0x56781234    ; a comment".toList
      = some { now := some 1000000000, ops := [.a32Marshal 0x56781234] }
  ∧ asmLine? "PPM.PULSE 1.55ms, 400.4us".toList = some { now := none, ops := [.ppmPulse 1550000 400400] }
  ∧ asmLine? "A32.UNMARSHAL 0xBEEF0042, NULL".toList = some { now := none, ops := [.a32Unmarshal false 0xBEEF0042] }
  ∧ asmLine? "CFG.WR PPM_SAFE3, 1500000".toList = some { now := none, ops := [.cfgWr 0x23 1500000] }
  ∧ asmLine? "A32.SEND 0x1234, 0x5678".toList = some { now := none, ops := [.a32Marshal 0x56781234] }
  ∧ asmLine? "A32.SEND 0x10000, 0".toList = none
  ∧ asmLine? "DISP.REGALL".toList = some { now := none, ops := [.dispReg .gfc, .dispReg .a32, .dispReg .p9, .dispReg .ppm] }
  ∧ asmLine? "RX (9ms, 4.5ms) (562.5us, 562.5us)".toList
      = some { now := none, ops := [.pulse 9000000 4500000, .pulse 562500 562500] }
  ∧ asmLine? "pulse 1, 2".toList = none
  ∧ asmLine? "PULSE 0.5ns, 2".toList = none

/-- A line's `now` stands until a line gives another, and is 0 before the first that does (R100). -/
def Obligations.AssembledRequestsInheritTheirTime : Prop :=
  ∀ (prev : Time) (line : List Char) (lines : List (List Char)) (l : AsmLine) (rest : List Input),
    asmLine? line = some l → assembleFrom (l.now.getD prev) lines = some rest →
    assembleFrom prev (line :: lines) = some (requestsAt (l.now.getD prev) l.ops ++ rest)
      ∧ assemble (line :: lines) = assembleFrom 0 (line :: lines)
end

