-- ==== Sys2Proof/Laws/State.lean ====
section
/-! SUPPORT. One lemma per field per update of the state, so that no proof unfolds a record update. -/

namespace Sys2Proof.Machine

section
variable (st : State)

/-! ## `append` -/

@[simp] theorem State.append_gfc (os : List Output) : (st.append os).gfc = st.gfc := rfl
@[simp] theorem State.append_a32 (os : List Output) : (st.append os).a32 = st.a32 := rfl
@[simp] theorem State.append_p9 (os : List Output) : (st.append os).p9 = st.p9 := rfl
@[simp] theorem State.append_ppm (os : List Output) : (st.append os).ppm = st.ppm := rfl
@[simp] theorem State.append_disp (os : List Output) : (st.append os).disp = st.disp := rfl
@[simp] theorem State.append_cfg (os : List Output) : (st.append os).cfg = st.cfg := rfl
@[simp] theorem State.append_now (os : List Output) : (st.append os).now = st.now := rfl
@[simp] theorem State.append_inputs (os : List Output) : (st.append os).inputs = st.inputs := rfl
@[simp] theorem State.append_out (os : List Output) : (st.append os).out = st.out ++ os := rfl

/-! ## `emitEvent?` -/

@[simp] theorem State.emitEvent_gfc (e : Option Event) : (st.emitEvent? e).gfc = st.gfc := rfl
@[simp] theorem State.emitEvent_a32 (e : Option Event) : (st.emitEvent? e).a32 = st.a32 := rfl
@[simp] theorem State.emitEvent_p9 (e : Option Event) : (st.emitEvent? e).p9 = st.p9 := rfl
@[simp] theorem State.emitEvent_ppm (e : Option Event) : (st.emitEvent? e).ppm = st.ppm := rfl
@[simp] theorem State.emitEvent_disp (e : Option Event) : (st.emitEvent? e).disp = st.disp := rfl
@[simp] theorem State.emitEvent_cfg (e : Option Event) : (st.emitEvent? e).cfg = st.cfg := rfl
@[simp] theorem State.emitEvent_now (e : Option Event) : (st.emitEvent? e).now = st.now := rfl
@[simp] theorem State.emitEvent_inputs (e : Option Event) : (st.emitEvent? e).inputs = st.inputs := rfl
@[simp] theorem State.emitEvent_out (e : Option Event) : (st.emitEvent? e).out = st.out ++ e.toList.map Output.event := rfl

/-! ## `emitTx` -/

@[simp] theorem State.emitTx_gfc (ps : List PulsePair) : (st.emitTx ps).gfc = st.gfc := rfl
@[simp] theorem State.emitTx_a32 (ps : List PulsePair) : (st.emitTx ps).a32 = st.a32 := rfl
@[simp] theorem State.emitTx_p9 (ps : List PulsePair) : (st.emitTx ps).p9 = st.p9 := rfl
@[simp] theorem State.emitTx_ppm (ps : List PulsePair) : (st.emitTx ps).ppm = st.ppm := rfl
@[simp] theorem State.emitTx_disp (ps : List PulsePair) : (st.emitTx ps).disp = st.disp := rfl
@[simp] theorem State.emitTx_cfg (ps : List PulsePair) : (st.emitTx ps).cfg = st.cfg := rfl
@[simp] theorem State.emitTx_now (ps : List PulsePair) : (st.emitTx ps).now = st.now := rfl
@[simp] theorem State.emitTx_inputs (ps : List PulsePair) : (st.emitTx ps).inputs = st.inputs := rfl
@[simp] theorem State.emitTx_out (ps : List PulsePair) : (st.emitTx ps).out = st.out ++ ps.map Output.tx := rfl

/-! ## `respond` -/

@[simp] theorem State.respond_gfc (c : Status) (ds : List Word) : (st.respond c ds).gfc = st.gfc := rfl
@[simp] theorem State.respond_a32 (c : Status) (ds : List Word) : (st.respond c ds).a32 = st.a32 := rfl
@[simp] theorem State.respond_p9 (c : Status) (ds : List Word) : (st.respond c ds).p9 = st.p9 := rfl
@[simp] theorem State.respond_ppm (c : Status) (ds : List Word) : (st.respond c ds).ppm = st.ppm := rfl
@[simp] theorem State.respond_disp (c : Status) (ds : List Word) : (st.respond c ds).disp = st.disp := rfl
@[simp] theorem State.respond_cfg (c : Status) (ds : List Word) : (st.respond c ds).cfg = st.cfg := rfl
@[simp] theorem State.respond_now (c : Status) (ds : List Word) : (st.respond c ds).now = st.now := rfl
@[simp] theorem State.respond_inputs (c : Status) (ds : List Word) : (st.respond c ds).inputs = st.inputs := rfl
@[simp] theorem State.respond_out (c : Status) (ds : List Word) : (st.respond c ds).out = st.out ++ [.response { status := c, data := ds }] := rfl

/-! ## `raise` -/

@[simp] theorem State.raise_gfc (c : Status) : (st.raise c).gfc = st.gfc := rfl
@[simp] theorem State.raise_a32 (c : Status) : (st.raise c).a32 = st.a32 := rfl
@[simp] theorem State.raise_p9 (c : Status) : (st.raise c).p9 = st.p9 := rfl
@[simp] theorem State.raise_ppm (c : Status) : (st.raise c).ppm = st.ppm := rfl
@[simp] theorem State.raise_disp (c : Status) : (st.raise c).disp = st.disp := rfl
@[simp] theorem State.raise_cfg (c : Status) : (st.raise c).cfg = st.cfg := rfl
@[simp] theorem State.raise_now (c : Status) : (st.raise c).now = st.now := rfl
@[simp] theorem State.raise_inputs (c : Status) : (st.raise c).inputs = st.inputs := rfl
@[simp] theorem State.raise_out (c : Status) : (st.raise c).out = st.out ++ [.response { status := c, data := [] }] := rfl

/-! ## `illegalRequest` -/

@[simp] theorem State.illegalRequest_gfc : (st.illegalRequest).gfc = st.gfc := rfl
@[simp] theorem State.illegalRequest_a32 : (st.illegalRequest).a32 = st.a32 := rfl
@[simp] theorem State.illegalRequest_p9 : (st.illegalRequest).p9 = st.p9 := rfl
@[simp] theorem State.illegalRequest_ppm : (st.illegalRequest).ppm = st.ppm := rfl
@[simp] theorem State.illegalRequest_disp : (st.illegalRequest).disp = st.disp := rfl
@[simp] theorem State.illegalRequest_cfg : (st.illegalRequest).cfg = st.cfg := rfl
@[simp] theorem State.illegalRequest_now : (st.illegalRequest).now = st.now := rfl
@[simp] theorem State.illegalRequest_inputs : (st.illegalRequest).inputs = st.inputs := rfl
@[simp] theorem State.illegalRequest_out : (st.illegalRequest).out = st.out ++ [.response { status := .illegalOp, data := [] }] := rfl

/-! ## `accept` -/

@[simp] theorem State.accept_gfc (now : Time) (rest : List Input) : (st.accept now rest).gfc = st.gfc := rfl
@[simp] theorem State.accept_a32 (now : Time) (rest : List Input) : (st.accept now rest).a32 = st.a32 := rfl
@[simp] theorem State.accept_p9 (now : Time) (rest : List Input) : (st.accept now rest).p9 = st.p9 := rfl
@[simp] theorem State.accept_ppm (now : Time) (rest : List Input) : (st.accept now rest).ppm = st.ppm := rfl
@[simp] theorem State.accept_disp (now : Time) (rest : List Input) : (st.accept now rest).disp = st.disp := rfl
@[simp] theorem State.accept_cfg (now : Time) (rest : List Input) : (st.accept now rest).cfg = st.cfg := rfl
@[simp] theorem State.accept_now (now : Time) (rest : List Input) : (st.accept now rest).now = now := rfl
@[simp] theorem State.accept_inputs (now : Time) (rest : List Input) : (st.accept now rest).inputs = rest := rfl
@[simp] theorem State.accept_out (now : Time) (rest : List Input) : (st.accept now rest).out = st.out := rfl

/-! ## `assertReset` -/

@[simp] theorem State.assertReset_gfc : (st.assertReset).gfc = GfcRegs.reset := rfl
@[simp] theorem State.assertReset_a32 : (st.assertReset).a32 = A32Regs.reset := rfl
@[simp] theorem State.assertReset_p9 : (st.assertReset).p9 = P9Regs.reset := rfl
@[simp] theorem State.assertReset_ppm : (st.assertReset).ppm = PpmRegs.reset := rfl
@[simp] theorem State.assertReset_disp : (st.assertReset).disp = DispRegs.reset := rfl
@[simp] theorem State.assertReset_cfg : (st.assertReset).cfg = CfgRegs.reset := rfl
@[simp] theorem State.assertReset_now : (st.assertReset).now = st.now := rfl
@[simp] theorem State.assertReset_inputs : (st.assertReset).inputs = st.inputs := rfl
@[simp] theorem State.assertReset_out : (st.assertReset).out = st.out := rfl

/-! ## `stepGfc` -/

@[simp] theorem State.stepGfc_gfc (on off : Dur) : (st.stepGfc on off).gfc = (gfcStep st.cfg on off st.gfc).1 := rfl
@[simp] theorem State.stepGfc_a32 (on off : Dur) : (st.stepGfc on off).a32 = st.a32 := rfl
@[simp] theorem State.stepGfc_p9 (on off : Dur) : (st.stepGfc on off).p9 = st.p9 := rfl
@[simp] theorem State.stepGfc_ppm (on off : Dur) : (st.stepGfc on off).ppm = st.ppm := rfl
@[simp] theorem State.stepGfc_disp (on off : Dur) : (st.stepGfc on off).disp = st.disp := rfl
@[simp] theorem State.stepGfc_cfg (on off : Dur) : (st.stepGfc on off).cfg = st.cfg := rfl
@[simp] theorem State.stepGfc_now (on off : Dur) : (st.stepGfc on off).now = st.now := rfl
@[simp] theorem State.stepGfc_inputs (on off : Dur) : (st.stepGfc on off).inputs = st.inputs := rfl
@[simp] theorem State.stepGfc_out (on off : Dur) : (st.stepGfc on off).out = st.out ++ (gfcStep st.cfg on off st.gfc).2.toList.map Output.event := rfl

/-! ## `stepA32` -/

@[simp] theorem State.stepA32_gfc (on off : Dur) : (st.stepA32 on off).gfc = st.gfc := rfl
@[simp] theorem State.stepA32_a32 (on off : Dur) : (st.stepA32 on off).a32 = (a32Step st.cfg on off st.a32).1 := rfl
@[simp] theorem State.stepA32_p9 (on off : Dur) : (st.stepA32 on off).p9 = st.p9 := rfl
@[simp] theorem State.stepA32_ppm (on off : Dur) : (st.stepA32 on off).ppm = st.ppm := rfl
@[simp] theorem State.stepA32_disp (on off : Dur) : (st.stepA32 on off).disp = st.disp := rfl
@[simp] theorem State.stepA32_cfg (on off : Dur) : (st.stepA32 on off).cfg = st.cfg := rfl
@[simp] theorem State.stepA32_now (on off : Dur) : (st.stepA32 on off).now = st.now := rfl
@[simp] theorem State.stepA32_inputs (on off : Dur) : (st.stepA32 on off).inputs = st.inputs := rfl
@[simp] theorem State.stepA32_out (on off : Dur) : (st.stepA32 on off).out = st.out ++ (a32Step st.cfg on off st.a32).2.toList.map Output.event := rfl

/-! ## `stepP9` -/

@[simp] theorem State.stepP9_gfc (off : Dur) : (st.stepP9 off).gfc = st.gfc := rfl
@[simp] theorem State.stepP9_a32 (off : Dur) : (st.stepP9 off).a32 = st.a32 := rfl
@[simp] theorem State.stepP9_p9 (off : Dur) : (st.stepP9 off).p9 = (p9Step st.cfg off st.p9).1 := rfl
@[simp] theorem State.stepP9_ppm (off : Dur) : (st.stepP9 off).ppm = st.ppm := rfl
@[simp] theorem State.stepP9_disp (off : Dur) : (st.stepP9 off).disp = st.disp := rfl
@[simp] theorem State.stepP9_cfg (off : Dur) : (st.stepP9 off).cfg = st.cfg := rfl
@[simp] theorem State.stepP9_now (off : Dur) : (st.stepP9 off).now = st.now := rfl
@[simp] theorem State.stepP9_inputs (off : Dur) : (st.stepP9 off).inputs = st.inputs := rfl
@[simp] theorem State.stepP9_out (off : Dur) : (st.stepP9 off).out = st.out ++ (p9Step st.cfg off st.p9).2.toList.map Output.event := rfl

/-! ## `stepPpm` -/

@[simp] theorem State.stepPpm_gfc (on off : Dur) : (st.stepPpm on off).gfc = st.gfc := rfl
@[simp] theorem State.stepPpm_a32 (on off : Dur) : (st.stepPpm on off).a32 = st.a32 := rfl
@[simp] theorem State.stepPpm_p9 (on off : Dur) : (st.stepPpm on off).p9 = st.p9 := rfl
@[simp] theorem State.stepPpm_ppm (on off : Dur) : (st.stepPpm on off).ppm = ppmStep st.cfg st.now on off st.ppm := rfl
@[simp] theorem State.stepPpm_disp (on off : Dur) : (st.stepPpm on off).disp = st.disp := rfl
@[simp] theorem State.stepPpm_cfg (on off : Dur) : (st.stepPpm on off).cfg = st.cfg := rfl
@[simp] theorem State.stepPpm_now (on off : Dur) : (st.stepPpm on off).now = st.now := rfl
@[simp] theorem State.stepPpm_inputs (on off : Dur) : (st.stepPpm on off).inputs = st.inputs := rfl
@[simp] theorem State.stepPpm_out (on off : Dur) : (st.stepPpm on off).out = st.out := rfl

end

end Sys2Proof.Machine
end

