-- ==== Sys2Proof/Laws/Ops.lean ====
section
/-! SUPPORT. The shared operations, each said once: bits, thresholds, parity, rounding, the streams, the decoder steps. -/

namespace Sys2Proof.Machine

/-! ## Bits -/

theorem getLsbD_setBit {w : Nat} (v : BitVec w) (i : Nat) (b : Bool) (k : Nat) :
    (setBit v i b).getLsbD k = if k = i ∧ k < w then b else v.getLsbD k := by
  by_cases hk : k < w
  · cases b <;> by_cases hi : k = i <;> simp [setBit, BitVec.getLsbD_twoPow, hk, hi]
    all_goals grind
  · simp [BitVec.getLsbD_of_ge _ _ (Nat.le_of_not_lt hk), hk]

/-- An accumulator with nothing at or above its counter has nothing at or above the next position once a bit is written at the counter's. -/
theorem setBit_clear_above {w : Nat} (v : BitVec w) (n : Nat) (b : Bool) (h : ∀ k, n ≤ k → v.getLsbD k = false) (k : Nat)
    (hk : n + 1 ≤ k) : (setBit v n b).getLsbD k = false := by
  rw [getLsbD_setBit, if_neg (by omega)]
  exact h k (by omega)

/-! ## Thresholds (R14) -/

theorem above_eq_decide (d t : Dur) : above d t = decide (t.toNat < d.toNat) := rfl

@[simp] theorem above_iff (d t : Dur) : above d t = true ↔ t.toNat < d.toNat := by simp [above]

@[simp] theorem above_false_iff (d t : Dur) : above d t = false ↔ d.toNat ≤ t.toNat := by simp [above]

/-! ## Parity -/

/-- Writing a 1 where there was a 0 inverts the parity. -/
theorem parity_setBit {w : Nat} (v : BitVec w) (n : Nat) (hn : n < w) (h : v.getLsbD n = false) :
    parity (setBit v n true) = !parity v := by
  have key : ∀ (l : List Nat) (p q : Bool), l.Nodup →
      l.foldl (fun p i => p ^^ (setBit v n true).getLsbD i) p = (l.foldl (fun p i => p ^^ v.getLsbD i) q ^^ (p ^^ q) ^^ decide (n ∈ l)) := by
    intro l
    induction l with
    | nil => intro p q _; cases p <;> cases q <;> rfl
    | cons a l ih =>
      intro p q hl
      rw [List.nodup_cons] at hl
      simp only [List.foldl_cons]
      rw [ih _ (q ^^ v.getLsbD a) hl.2, getLsbD_setBit]
      by_cases ha : a = n
      · subst ha
        have h' : v[a] = false := by simpa [BitVec.getLsbD_eq_getElem hn] using h
        simp [hl.1, hn, h']
      · have : ¬ (n = a) := fun e => ha e.symm
        simp only [ha, false_and, if_false, List.mem_cons, this, false_or]
        cases p <;> cases q <;> cases v.getLsbD a <;> simp
  have := key (List.range w) false false List.nodup_range
  simp only [parity, this]
  simp [hn]

/-- An XOR over a list is 1 exactly when an odd number of its bits are. -/
theorem foldl_xor (f : Nat → Bool) (l : List Nat) (p : Bool) : l.foldl (fun p i => p ^^ f i) p = (p ^^ decide (l.countP f % 2 = 1)) := by
  induction l generalizing p with
  | nil => simp
  | cons a l ih =>
    rw [List.foldl_cons, ih, List.countP_cons]
    rcases Nat.mod_two_eq_zero_or_one (l.countP f) with h | h <;> cases hf : f a <;> cases p <;> simp [h, Nat.add_mod]

/-! ## The P9 data byte (R170, R173) -/

theorem dataByte_lt (w : Word) (h : w.toNat < 256) : dataByte? w = some (w.setWidth 8) := by
  unfold dataByte?
  rw [if_pos]
  · congr 1
  · apply BitVec.eq_of_toNat_eq; simp [Nat.shiftRight_eq_div_pow]; omega

theorem dataByte_ge (w : Word) (h : 256 ≤ w.toNat) : dataByte? w = none := by
  unfold dataByte?
  rw [if_neg]
  intro e
  have := congrArg BitVec.toNat e
  simp [Nat.shiftRight_eq_div_pow] at this
  have := w.isLt
  omega

/-- The parity bit of a marshalled byte is 1 exactly when the byte has an even number of ones (R172). -/
theorem oddParityBit_eq (w : Word) : oddParityBit (w.setWidth 8) = decide ((List.range 8).countP (fun k => w.getLsbD k) % 2 = 0) := by
  unfold oddParityBit parity
  rw [foldl_xor]
  have : List.countP (w.setWidth 8).getLsbD (List.range 8) = List.countP (fun k => w.getLsbD k) (List.range 8) := by
    apply List.countP_congr; intro k hk; rw [BitVec.getLsbD_setWidth]; simp [List.mem_range.mp hk]
  simp only [this]
  rcases Nat.mod_two_eq_zero_or_one (List.countP (fun k => w.getLsbD k) (List.range 8)) with h | h <;> simp [h]

/-! ## The streams -/

theorem State.events_eq (s t : State) (os : List Output) (h : t.out = s.out ++ os) :
    t.events = s.events ++ os.filterMap Output.event? := by simp [State.events, h]

theorem State.txPairs_eq (s t : State) (os : List Output) (h : t.out = s.out ++ os) :
    t.txPairs = s.txPairs ++ os.filterMap Output.tx? := by simp [State.txPairs, h]

theorem State.responses_eq (s t : State) (os : List Output) (h : t.out = s.out ++ os) :
    t.responses = s.responses ++ os.filterMap Output.response? := by simp [State.responses, h]

@[simp] theorem event?_event (e : Event) : Output.event? (.event e) = some e := rfl

@[simp] theorem tx?_event (e : Event) : Output.tx? (.event e) = none := rfl

@[simp] theorem event?_tx (p : PulsePair) : Output.event? (.tx p) = none := rfl

@[simp] theorem tx?_tx (p : PulsePair) : Output.tx? (.tx p) = some p := rfl

@[simp] theorem filterMap_event_map_event (es : List Event) : (es.map Output.event).filterMap Output.event? = es := by
  induction es with
  | nil => rfl
  | cons e es ih => simp [Output.event?, ih]

@[simp] theorem filterMap_tx_map_event (es : List Event) : (es.map Output.event).filterMap Output.tx? = [] := by
  simp [Output.tx?]

@[simp] theorem filterMap_tx_map_tx (ps : List PulsePair) : (ps.map Output.tx).filterMap Output.tx? = ps := by
  induction ps with
  | nil => rfl
  | cons e es ih => simp [Output.tx?, ih]

@[simp] theorem filterMap_event_map_tx (ps : List PulsePair) : (ps.map Output.tx).filterMap Output.event? = [] := by
  simp [Output.event?]

@[simp] theorem event?_okResponse : Output.event? okResponse = none := rfl

@[simp] theorem tx?_okResponse : Output.tx? okResponse = none := rfl

@[simp] theorem event?_response (r : Response) : Output.event? (.response r) = none := rfl

@[simp] theorem tx?_response (r : Response) : Output.tx? (.response r) = none := rfl

@[simp] theorem filterMap_event_okResponse : [okResponse].filterMap Output.event? = [] := rfl

@[simp] theorem filterMap_tx_okResponse : [okResponse].filterMap Output.tx? = [] := rfl

@[simp] theorem filterMap_event_response (r : Response) : [Output.response r].filterMap Output.event? = [] := rfl

@[simp] theorem filterMap_tx_response (r : Response) : [Output.response r].filterMap Output.tx? = [] := rfl

/-! ## Rounding (R186) -/

/-- `ROUND_TICK` gives the multiple of the tick nearest to the sum, the upper one at an exact half. -/
theorem roundTick_spec (d t : Nat) (ht : 1 ≤ t) :
    ∃ q, roundTick d t = q * t ∧ 2 * (q * t) ≤ 2 * d + t ∧ 2 * d + t < 2 * (q * t) + 2 * t := by
  have hm : d % t < t := Nat.mod_lt _ ht
  have hd : t * (d / t) + d % t = d := Nat.div_add_mod d t
  have hc : t * (d / t) = d / t * t := Nat.mul_comm _ _
  unfold roundTick
  split
  · refine ⟨d / t + 1, ?_⟩
    rw [Nat.add_mul, Nat.one_mul]
    omega
  · exact ⟨d / t, by omega⟩

/-! ## Staleness (R185) -/

theorem stale_iff (c : CfgRegs) (r : PpmRegs) (now : Time) : stale c r now = true ↔ StaleAt c r now := by
  simp only [stale, StaleAt, Bool.or_eq_true, Bool.not_eq_true', decide_eq_true_eq, BitVec.toNat_sub]
  rw [show (2 ^ 64 - r.last.toNat + now.toNat) = now.toNat + 2 ^ 64 - r.last.toNat by have := r.last.isLt; omega]

/-- A stale decoder's accessors read the safe values. -/
theorem State.channelSource_stale (st : State) (h : StaleAt st.cfg st.ppm st.now) : st.channelSource = st.cfg.ppmSafe := by
  simp [State.channelSource, (stale_iff _ _ _).mpr h]

/-- The accessors of a decoder that is not stale read the live values. -/
theorem State.channelSource_live (st : State) (h : ¬ StaleAt st.cfg st.ppm st.now) : st.channelSource = st.ppm.ch := by
  simp only [State.channelSource]
  rw [if_neg (fun e => h ((stale_iff _ _ _).mp e))]

/-! ## Channels -/

theorem channel?_eq_some (c : CfgRegs) (n : Nat) (i : Fin 16) : channel? c n = some i ↔ i.val = n ∧ n < c.ppmNch.toNat := by
  unfold channel?
  split
  · rename_i h
    simp only [Option.some.injEq, Fin.ext_iff]
    constructor
    · intro e; exact ⟨e.symm, h.2⟩
    · intro e; exact e.1.symm
  · rename_i h
    constructor
    · intro e; cases e
    · rintro ⟨rfl, h2⟩; exact absurd ⟨i.isLt, h2⟩ h

theorem channel?_eq_none (c : CfgRegs) (n : Nat) : channel? c n = none ↔ 16 ≤ n ∨ c.ppmNch.toNat ≤ n := by
  unfold channel?
  split
  · rename_i h; simp only [Config.maxCh] at h; constructor
    · intro e; cases e
    · omega
  · rename_i h; simp only [Config.maxCh] at h; simp only [true_iff]; omega

/-! ## What a decoder step can do: one inversion lemma each -/

/-- Everything a GFC step can do (R111 to R115). -/
theorem gfcStep_cases (c : CfgRegs) (on off : Dur) (r : GfcRegs) :
    (c.gfcStartAssert.toNat < on.toNat ∧ gfcStep c on off r = ({ acc := 0, cnt := 0 }, none))
    ∨ (on.toNat ≤ c.gfcStartAssert.toNat ∧ r.cnt.toNat = 10 ∧ gfcStep c on off r = (r, none))
    ∨ (on.toNat ≤ c.gfcStartAssert.toNat ∧ r.cnt.toNat ≠ 10
      ∧ gfcStep c on off r = ({ acc := setBit r.acc r.cnt.toNat (above off c.gfcOneDeassert), cnt := r.cnt + 1 },
        if (r.cnt + 1).toNat = 10 then
          some { kind := .gfc, payload := (setBit r.acc r.cnt.toNat (above off c.gfcOneDeassert)).setWidth 32 } else none)) := by
  unfold gfcStep
  by_cases h1 : c.gfcStartAssert.toNat < on.toNat
  · left; simp [h1]
  · have h1' : above on c.gfcStartAssert = false := by simpa using h1
    right
    by_cases h2 : r.cnt.toNat = 10
    · left; simp [h1', h2]; omega
    · right; simp [h1', h2]; omega

/-- Everything an A32 step can do (R131 to R137). -/
theorem a32Step_cases (c : CfgRegs) (on off : Dur) (r : A32Regs) :
    (c.a32IgnoreDeassert.toNat < off.toNat ∧ a32Step c on off r = (r, none))
    ∨ (off.toNat ≤ c.a32IgnoreDeassert.toNat ∧ c.a32StartDeassert.toNat < off.toNat
      ∧ a32Step c on off r = (if c.a32StartAssert.toNat < on.toNat then { acc := 0, cnt := 0 } else r, none))
    ∨ (off.toNat ≤ c.a32IgnoreDeassert.toNat ∧ off.toNat ≤ c.a32StartDeassert.toNat ∧ r.cnt.toNat = 32
      ∧ a32Step c on off r = (r, none))
    ∨ (off.toNat ≤ c.a32IgnoreDeassert.toNat ∧ off.toNat ≤ c.a32StartDeassert.toNat ∧ r.cnt.toNat ≠ 32
      ∧ a32Step c on off r = ({ acc := setBit r.acc r.cnt.toNat (above on c.a32OneAssert), cnt := r.cnt + 1 },
        if (r.cnt + 1).toNat = 32 then
          some { kind := .a32, payload := setBit r.acc r.cnt.toNat (above on c.a32OneAssert) } else none)) := by
  unfold a32Step
  by_cases h1 : c.a32IgnoreDeassert.toNat < off.toNat
  · left; simp [h1]
  · have h1' : above off c.a32IgnoreDeassert = false := by simpa using h1
    right
    by_cases h2 : c.a32StartDeassert.toNat < off.toNat
    · left; simp [h1', h2]; omega
    · have h2' : above off c.a32StartDeassert = false := by simpa using h2
      right
      by_cases h3 : r.cnt.toNat = 32
      · left; simp [h1', h2', h3]; omega
      · right; simp [h1', h2', h3]; omega

/-- Everything a P9 step can do (R161 to R164). -/
theorem p9Step_cases (c : CfgRegs) (off : Dur) (r : P9Regs) :
    (c.p9StartDeassert.toNat < off.toNat ∧ p9Step c off r = ({ acc := 0, cnt := 0, par := false }, none))
    ∨ (off.toNat ≤ c.p9StartDeassert.toNat ∧ (r.cnt + 1).toNat = 9
      ∧ p9Step c off r = ({ acc := 0, cnt := 0, par := false },
        if (r.par ^^ above off c.p9OneDeassert) then
          some { kind := .p9, payload := ((if above off c.p9OneDeassert then setBit r.acc r.cnt.toNat true else r.acc).extractLsb' 0 8).setWidth 32 }
        else none))
    ∨ (off.toNat ≤ c.p9StartDeassert.toNat ∧ (r.cnt + 1).toNat ≠ 9
      ∧ p9Step c off r = (
          { acc := if above off c.p9OneDeassert then setBit r.acc r.cnt.toNat true else r.acc
            cnt := r.cnt + 1
            par := r.par ^^ above off c.p9OneDeassert }, none)) := by
  unfold p9Step
  by_cases h1 : c.p9StartDeassert.toNat < off.toNat
  · left; simp [h1]
  · have h1' : above off c.p9StartDeassert = false := by simpa using h1
    right
    by_cases h2 : (r.cnt + 1).toNat = 9
    · left; refine ⟨by omega, h2, ?_⟩
      simp only [h1', Bool.false_eq_true, if_false, Config.p9W, if_pos h2, runningParity]
      rfl
    · right; refine ⟨by omega, h2, ?_⟩
      simp only [h1', Bool.false_eq_true, if_false, Config.p9W, if_neg h2, runningParity]

/-- Everything a PPM step can do (R181 to R184). -/
theorem ppmStep_cases (c : CfgRegs) (now : Time) (on off : Dur) (r : PpmRegs) :
    (c.ppmSyncAssert.toNat < on.toNat ∧ ppmStep c now on off r = { r with last := now, idx := 0, synced := true })
    ∨ (on.toNat ≤ c.ppmSyncAssert.toNat ∧ (r.synced = false ∨ 16 ≤ r.idx.toNat ∨ c.ppmNch.toNat ≤ r.idx.toNat)
      ∧ ppmStep c now on off r = r)
    ∨ (on.toNat ≤ c.ppmSyncAssert.toNat ∧ r.synced = true ∧ ∃ i : Fin 16, i.val = r.idx.toNat ∧ r.idx.toNat < c.ppmNch.toNat
      ∧ ppmStep c now on off r = { r with ch := r.ch.set i (channelValue c on off), idx := r.idx + 1 }) := by
  unfold ppmStep
  by_cases h1 : c.ppmSyncAssert.toNat < on.toNat
  · left; simp [h1]
  · have h1' : above on c.ppmSyncAssert = false := by simpa using h1
    right
    by_cases h2 : r.synced = true
    · cases hc : channel? c r.idx.toNat with
      | none =>
        left
        refine ⟨by omega, Or.inr ((channel?_eq_none _ _).mp hc), ?_⟩
        simp [h1', h2]
      | some i =>
        right
        obtain ⟨hi, hn⟩ := (channel?_eq_some _ _ _).mp hc
        refine ⟨by omega, h2, i, hi, hn, ?_⟩
        simp [h1', h2]
    · left
      refine ⟨by omega, Or.inl (by simpa using h2), ?_⟩
      simp [h1', h2]

end Sys2Proof.Machine
end

