-- ==== Sys2Proof/Laws/Exec.lean ====
section
/-! SUPPORT. What each operation answers, one equation a case, and what a PULSE leaves alone. Callers cite these and never unfold `exec`. -/

namespace Sys2Proof.Machine

section
variable (s : State)

/-! ## One equation a case -/

theorem exec_pulse (on off : Dur) : exec (.pulse on off) s = .next ((s.stepAll s.disp.members on off).respond .ok []) := rfl

theorem exec_gfcPulse (on off : Dur) : exec (.gfcPulse on off) s = .next ((s.stepGfc on off).respond .ok []) := rfl

theorem exec_a32Pulse (on off : Dur) : exec (.a32Pulse on off) s = .next ((s.stepA32 on off).respond .ok []) := rfl

theorem exec_p9Pulse (on off : Dur) : exec (.p9Pulse on off) s = .next ((s.stepP9 off).respond .ok []) := rfl

theorem exec_ppmPulse (on off : Dur) : exec (.ppmPulse on off) s = .next ((s.stepPpm on off).respond .ok []) := rfl

theorem exec_dispReg_room (id : DecoderId) (h : s.disp.len.toNat < 8) :
    exec (.dispReg id) s = .next (({ s with
      disp := { len := s.disp.len + 1, list := s.disp.list.set s.disp.len.toNat id h } }).respond .ok []) := by
  simp only [exec, execDispReg]
  rw [dif_pos h]

theorem exec_dispReg_full (id : DecoderId) (h : ¬ s.disp.len.toNat < 8) : exec (.dispReg id) s = .next (s.raise .dispFull) := by
  simp only [exec, execDispReg]
  rw [dif_neg h]

theorem exec_a32Marshal (w : Word) : exec (.a32Marshal w) s = .next ((s.emitTx (a32Frame s.cfg w)).respond .ok []) := rfl

theorem exec_a32Unmarshal_present (w : Word) :
    exec (.a32Unmarshal true w) s = .next (s.respond .ok [frameAddress w, frameCommand w]) := rfl

theorem exec_a32Unmarshal_absent (w : Word) : exec (.a32Unmarshal false w) s = .next (s.raise .nullDest) := rfl

theorem exec_p9Marshal_byte (w : Word) (d : BitVec 8) (h : dataByte? w = some d) :
    exec (.p9Marshal w) s = .next ((s.emitTx (p9Frame s.cfg d)).respond .ok []) := by
  simp only [exec, execP9Marshal, h]

theorem exec_p9Marshal_wide (w : Word) (h : dataByte? w = none) : exec (.p9Marshal w) s = .next (s.raise .badOperand) := by
  simp only [exec, execP9Marshal, h]

theorem exec_ppmCh_channel (n : BitVec 8) (i : Fin 16) (h : channel? s.cfg n.toNat = some i) :
    exec (.ppmCh n) s = .next (s.respond .ok [s.channelSource[i]]) := by
  simp only [exec, execPpmCh, h]

theorem exec_ppmCh_none (n : BitVec 8) (h : channel? s.cfg n.toNat = none) : exec (.ppmCh n) s = .next (s.raise .badChannel) := by
  simp only [exec, execPpmCh, h]

theorem exec_ppmChs : exec .ppmChs s = .next (s.respond .ok (s.channelSource.toList.take s.cfg.ppmNch.toNat)) := rfl

theorem exec_ppmStale : exec .ppmStale s = .next (s.respond .ok [if stale s.cfg s.ppm s.now then 1 else 0]) := rfl

theorem exec_cfgWr_reserved (n : BitVec 8) (v : Word) (h : CfgReg.ofNumber n = none) :
    exec (.cfgWr n v) s = .next (s.raise .badReg) := by
  simp only [exec, execCfgWr, h]

theorem exec_cfgWr_illegal (n : BitVec 8) (v : Word) (r : CfgReg) (h : CfgReg.ofNumber n = some r) (hl : r.legal v = false) :
    exec (.cfgWr n v) s = .next (s.raise .badValue) := by
  simp only [exec, execCfgWr, h]
  rw [if_neg (by simp [hl])]

theorem exec_cfgWr_legal (n : BitVec 8) (v : Word) (r : CfgReg) (h : CfgReg.ofNumber n = some r) (hl : r.legal v = true) :
    exec (.cfgWr n v) s = .next (({ s with cfg := s.cfg.write r v }).respond .ok []) := by
  simp only [exec, execCfgWr, h]
  rw [if_pos hl]

theorem exec_cfgRd_reserved (n : BitVec 8) (h : CfgReg.ofNumber n = none) : exec (.cfgRd n) s = .next (s.raise .badReg) := by
  simp only [exec, execCfgRd, h]

theorem exec_cfgRd_register (n : BitVec 8) (r : CfgReg) (h : CfgReg.ofNumber n = some r) :
    exec (.cfgRd n) s = .next (s.respond .ok [s.cfg.read r]) := by
  simp only [exec, execCfgRd, h]

end

/-! ## Stepping the members of PULSE -/

/-- One decoder step emits at most one event and nothing else. -/
theorem stepDecoder_out (s : State) (id : DecoderId) (on off : Dur) :
    ∃ es : List Event, (s.stepDecoder id on off).out = s.out ++ es.map .event ∧ es.length ≤ 1 := by
  cases id
  · exact ⟨_, by simp [State.stepDecoder]; rfl, by cases (gfcStep s.cfg on off s.gfc).2 <;> simp⟩
  · exact ⟨_, by simp [State.stepDecoder]; rfl, by cases (a32Step s.cfg on off s.a32).2 <;> simp⟩
  · exact ⟨_, by simp [State.stepDecoder]; rfl, by cases (p9Step s.cfg off s.p9).2 <;> simp⟩
  · exact ⟨[], by simp [State.stepDecoder], by simp⟩

/-- What stepping a list of decoders leaves alone, and what it puts out. -/
theorem stepAll_frame (ids : List DecoderId) (on off : Dur) : ∀ s : State,
    (s.stepAll ids on off).disp = s.disp ∧ (s.stepAll ids on off).cfg = s.cfg
    ∧ (s.stepAll ids on off).now = s.now ∧ (s.stepAll ids on off).inputs = s.inputs
    ∧ (.gfc ∉ ids → (s.stepAll ids on off).gfc = s.gfc) ∧ (.a32 ∉ ids → (s.stepAll ids on off).a32 = s.a32)
    ∧ (.p9 ∉ ids → (s.stepAll ids on off).p9 = s.p9) ∧ (.ppm ∉ ids → (s.stepAll ids on off).ppm = s.ppm)
    ∧ ∃ es : List Event, (s.stepAll ids on off).out = s.out ++ es.map .event ∧ es.length ≤ ids.length := by
  induction ids with
  | nil => intro s; simp [State.stepAll]
  | cons id ids ih =>
    intro s
    obtain ⟨h1, h2, h3, h4, h5, h6, h7, h8, es, ho, hl⟩ := ih (s.stepDecoder id on off)
    obtain ⟨es', ho', hl'⟩ := stepDecoder_out s id on off
    rw [show s.stepAll (id :: ids) on off = (s.stepDecoder id on off).stepAll ids on off from rfl]
    refine ⟨?_, ?_, ?_, ?_, ?_, ?_, ?_, ?_, es' ++ es, ?_, by simp; omega⟩
    · rw [h1]; cases id <;> simp [State.stepDecoder]
    · rw [h2]; cases id <;> simp [State.stepDecoder]
    · rw [h3]; cases id <;> simp [State.stepDecoder]
    · rw [h4]; cases id <;> simp [State.stepDecoder]
    · intro hm; simp only [List.mem_cons, not_or] at hm; rw [h5 hm.2]; cases id <;> simp_all [State.stepDecoder]
    · intro hm; simp only [List.mem_cons, not_or] at hm; rw [h6 hm.2]; cases id <;> simp_all [State.stepDecoder]
    · intro hm; simp only [List.mem_cons, not_or] at hm; rw [h7 hm.2]; cases id <;> simp_all [State.stepDecoder]
    · intro hm; simp only [List.mem_cons, not_or] at hm; rw [h8 hm.2]; cases id <;> simp_all [State.stepDecoder]
    · rw [ho, ho']; simp

/-- The dispatcher never has more than `DISP_MAX` members. -/
theorem members_length_le (r : DispRegs) : r.members.length ≤ 8 := by simp [DispRegs.members]

/-- Everything an operation can put out, what it leaves of the ports, and which status comes from where. -/
theorem exec_answers (i : Instr) (s : State) : ∃ (t : State) (es : List Event) (ps : List PulsePair) (r : Response), exec i s = .next t
    ∧ t.out = s.out ++ (es.map .event ++ ps.map .tx ++ [.response r]) ∧ SamePorts s t ∧ es.length ≤ 8 ∧ ps.length ≤ 34 ∧ r.data.length ≤ 16
    ∧ (r.status ≠ .ok → NoRegisterWritten s t ∧ es = [] ∧ ps = [] ∧ r.data = [])
    ∧ ((pulsePair? i).isSome → r = ⟨.ok, []⟩ ∧ ps = [])
    ∧ (r.status = .nullDest → ∃ w, i = .a32Unmarshal false w)
    ∧ (r.status = .badChannel → ∃ n, i = .ppmCh n)
    ∧ (r.status = .dispFull → ∃ id, i = .dispReg id)
    ∧ (r.status = .badReg → ∃ n, i = .cfgRd n ∨ ∃ v, i = .cfgWr n v)
    ∧ (r.status = .badValue → ∃ n v, i = .cfgWr n v)
    ∧ (r.status = .badOperand → ∃ w, i = .p9Marshal w)
    ∧ r.status ≠ .illegalOp := by
  cases i
  case pulse on off =>
    obtain ⟨h1, h2, h3, h4, -, -, -, -, es, ho, hl⟩ := stepAll_frame s.disp.members on off s
    have := members_length_le s.disp
    exact ⟨_, es, [], ⟨.ok, []⟩, rfl, by simp [ho], ⟨h3, h4⟩, by omega, by simp, by simp, by simp, by simp⟩
  case gfcPulse on off =>
    exact ⟨_, (gfcStep s.cfg on off s.gfc).2.toList, [], ⟨.ok, []⟩, rfl, by simp, ⟨rfl, rfl⟩, by cases (gfcStep s.cfg on off s.gfc).2 <;> simp, by simp, by simp, by simp, by simp⟩
  case a32Pulse on off =>
    exact ⟨_, (a32Step s.cfg on off s.a32).2.toList, [], ⟨.ok, []⟩, rfl, by simp, ⟨rfl, rfl⟩, by cases (a32Step s.cfg on off s.a32).2 <;> simp, by simp, by simp, by simp, by simp⟩
  case p9Pulse on off =>
    exact ⟨_, (p9Step s.cfg off s.p9).2.toList, [], ⟨.ok, []⟩, rfl, by simp, ⟨rfl, rfl⟩, by cases (p9Step s.cfg off s.p9).2 <;> simp, by simp, by simp, by simp, by simp⟩
  case ppmPulse on off =>
    exact ⟨_, [], [], ⟨.ok, []⟩, rfl, by simp, ⟨rfl, rfl⟩, by simp, by simp, by simp, by simp, by simp⟩
  case dispReg id =>
    by_cases h : s.disp.len.toNat < 8
    · exact ⟨_, [], [], ⟨.ok, []⟩, exec_dispReg_room s _ h, by simp, ⟨rfl, rfl⟩, by simp, by simp, by simp, by simp, by simp [pulsePair?]⟩
    · exact ⟨_, [], [], ⟨.dispFull, []⟩, exec_dispReg_full s _ h, by simp, ⟨rfl, rfl⟩, by simp, by simp, by simp, by simp [NoRegisterWritten, RegistersKept, SamePorts], by simp [pulsePair?]⟩
  case a32Marshal w =>
    exact ⟨_, [], a32Frame s.cfg w, ⟨.ok, []⟩, rfl, by simp, ⟨rfl, rfl⟩, by simp, by simp [a32Frame], by simp, by simp, by simp [pulsePair?]⟩
  case a32Unmarshal d w =>
    cases d
    · exact ⟨_, [], [], ⟨.nullDest, []⟩, rfl, by simp, ⟨rfl, rfl⟩, by simp, by simp, by simp, by simp [NoRegisterWritten, RegistersKept, SamePorts], by simp [pulsePair?]⟩
    · exact ⟨_, [], [], ⟨.ok, _⟩, rfl, rfl, ⟨rfl, rfl⟩, by simp, by simp, by simp, by simp, by simp [pulsePair?]⟩
  case p9Marshal w =>
    cases h : dataByte? w with
    | none => exact ⟨_, [], [], ⟨.badOperand, []⟩, exec_p9Marshal_wide s _ h, by simp, ⟨rfl, rfl⟩, by simp, by simp, by simp, by simp [NoRegisterWritten, RegistersKept, SamePorts], by simp [pulsePair?]⟩
    | some d => exact ⟨_, [], p9Frame s.cfg d, ⟨.ok, []⟩, exec_p9Marshal_byte s _ _ h, by simp, ⟨rfl, rfl⟩, by simp, by simp [p9Frame], by simp, by simp, by simp [pulsePair?]⟩
  case ppmCh n =>
    cases h : channel? s.cfg n.toNat with
    | none => exact ⟨_, [], [], ⟨.badChannel, []⟩, exec_ppmCh_none s _ h, by simp, ⟨rfl, rfl⟩, by simp, by simp, by simp, by simp [NoRegisterWritten, RegistersKept, SamePorts], by simp [pulsePair?]⟩
    | some d => exact ⟨_, [], [], ⟨.ok, [s.channelSource[d]]⟩, exec_ppmCh_channel _ _ _ h, by simp, ⟨rfl, rfl⟩, by simp, by simp, by simp, by simp, by simp [pulsePair?]⟩
  case ppmChs =>
    exact ⟨_, [], [], ⟨.ok, _⟩, rfl, rfl, ⟨rfl, rfl⟩, by simp, by simp, by simp, by simp, by simp [pulsePair?]⟩
  case ppmStale =>
    exact ⟨_, [], [], ⟨.ok, _⟩, rfl, rfl, ⟨rfl, rfl⟩, by simp, by simp, by simp, by simp, by simp [pulsePair?]⟩
  case cfgWr n v =>
    cases h : CfgReg.ofNumber n with
    | none => exact ⟨_, [], [], ⟨.badReg, []⟩, exec_cfgWr_reserved s _ _ h, by simp, ⟨rfl, rfl⟩, by simp, by simp, by simp, by simp [NoRegisterWritten, RegistersKept, SamePorts], by simp [pulsePair?]⟩
    | some r =>
      by_cases hl : r.legal v = true
      · exact ⟨_, [], [], ⟨.ok, []⟩, exec_cfgWr_legal s _ _ _ h hl, by simp, ⟨rfl, rfl⟩, by simp, by simp, by simp, by simp, by simp [pulsePair?]⟩
      · exact ⟨_, [], [], ⟨.badValue, []⟩, exec_cfgWr_illegal s _ _ _ h (by simpa using hl), by simp, ⟨rfl, rfl⟩, by simp, by simp, by simp, by simp [NoRegisterWritten, RegistersKept, SamePorts], by simp [pulsePair?]⟩
  case cfgRd n =>
    cases h : CfgReg.ofNumber n with
    | none => exact ⟨_, [], [], ⟨.badReg, []⟩, exec_cfgRd_reserved s _ h, by simp, ⟨rfl, rfl⟩, by simp, by simp, by simp, by simp [NoRegisterWritten, RegistersKept, SamePorts], by simp [pulsePair?]⟩
    | some r => exact ⟨_, [], [], ⟨.ok, [s.cfg.read r]⟩, exec_cfgRd_register _ _ _ h, by simp, ⟨rfl, rfl⟩, by simp, by simp, by simp, by simp, by simp [pulsePair?]⟩

end Sys2Proof.Machine
end

