-- ==== Sys2Proof/Laws/CfgMap.lean ====
section
/-! SUPPORT. The configuration register map: numbers, reading after writing, legal values; and the entries of the dispatcher list. -/

namespace Sys2Proof.Machine

/-- The numbers without a register are those R230 lists. -/
theorem ofNumber_eq_none (n : BitVec 8) : CfgReg.ofNumber n = none ↔ ReservedCfgNumber n := by
  unfold ReservedCfgNumber; revert n; decide

theorem ofNumber_number (n : BitVec 8) (r : CfgReg) (h : CfgReg.ofNumber n = some r) : r.number = n := by
  have := List.find?_some h
  simpa using this

/-- Every register is found under its own number. -/
theorem number_ofNumber (r : CfgReg) : CfgReg.ofNumber r.number = some r := by
  cases r
  case ppmSafe i => revert i; decide
  all_goals decide

/-- No two registers share a number. -/
theorem number_injective (r r' : CfgReg) (h : r.number = r'.number) : r = r' := by
  have e := number_ofNumber r
  rw [h, number_ofNumber r'] at e
  exact (Option.some.inj e).symm

/-- The values that a register refuses are those R232 lists. -/
theorem illegal_iff (n : BitVec 8) (r : CfgReg) (v : Word) (h : CfgReg.ofNumber n = some r) : IllegalCfgValue n v ↔ r.legal v = false := by
  have hn := ofNumber_number n r h
  subst hn
  unfold IllegalCfgValue
  have num : ∀ r : CfgReg, (r.number = 0x0A ↔ r = .ppmTick) ∧ (r.number = 0x0B ↔ r = .ppmNch) := by
    intro r
    cases r
    case ppmSafe i => revert i; decide
    all_goals decide
  rw [(num r).1, (num r).2]
  cases r <;> simp [CfgReg.legal, Config.maxCh]
  all_goals omega

/-- Reading after a write: the register written reads as the value, every other as before. -/
theorem read_write (c : CfgRegs) (r r' : CfgReg) (v : Word) : (c.write r v).read r' = if r' = r then v else c.read r' := by
  cases r
  case ppmSafe i =>
    cases r'
    case ppmSafe j =>
      simp only [CfgRegs.write, CfgRegs.read, CfgReg.ppmSafe.injEq, Fin.getElem_fin]
      rw [Vector.getElem_set]
      simp [Fin.ext_iff, eq_comm]
    all_goals simp [CfgRegs.write, CfgRegs.read]
  all_goals cases r' <;> simp [CfgRegs.write, CfgRegs.read]

/-- Configuration registers that read alike are equal. -/
theorem read_ext (c d : CfgRegs) (h : ∀ r, c.read r = d.read r) : c = d := by
  have hs : c.ppmSafe = d.ppmSafe := by
    apply Vector.ext; intro i hi; exact h (.ppmSafe ⟨i, hi⟩)
  cases c; cases d
  simp only [CfgRegs.mk.injEq]
  refine ⟨h .gfcStartAssert, h .gfcOneDeassert, h .a32IgnoreDeassert, h .a32StartDeassert, h .a32StartAssert, h .a32OneAssert, h .p9StartDeassert, h .p9OneDeassert, h .ppmSyncAssert, h .ppmTimeout, h .ppmTick, h .ppmNch, h .a32TxStartA, h .a32TxStartS, h .a32TxOneA, h .a32TxOneS, h .a32TxZeroA, h .a32TxZeroS, h .p9TxStartA, h .p9TxStartS, h .p9TxOneA, h .p9TxOneS, h .p9TxZeroA, h .p9TxZeroS, hs⟩

/-- Every register is listed. -/
theorem mem_all (r : CfgReg) : r ∈ CfgReg.all := by
  cases r
  case ppmSafe i => simp [CfgReg.all]
  all_goals simp [CfgReg.all, CfgReg.named]

/-- Appending an entry appends a member. -/
theorem members_append (r : DispRegs) (id : DecoderId) (h : r.len.toNat < 8) :
    DispRegs.members { len := r.len + 1, list := r.list.set r.len.toNat id h } = r.members ++ [id] := by
  have e : (r.len + 1).toNat = r.len.toNat + 1 := by simp [BitVec.toNat_add]; omega
  simp only [DispRegs.members, e, Vector.toList_set]
  apply List.ext_getElem?
  intro k
  rw [List.getElem?_take, List.getElem?_append, List.getElem?_set]
  simp only [List.length_take, Vector.length_toList, List.getElem?_take]
  rcases Nat.lt_trichotomy k r.len.toNat with hk | hk | hk
  · simp [show k < r.len.toNat + 1 by omega, show k < min r.len.toNat 8 by omega, show r.len.toNat ≠ k by omega, hk]
  · subst hk; simp [show min r.len.toNat 8 = r.len.toNat by omega, h]
  · simp [show ¬ k < r.len.toNat + 1 by omega, show ¬ k < min r.len.toNat 8 by omega]; omega

end Sys2Proof.Machine
end

