-- ==== Sys2Proof/Laws/Decode.lean ====
section
/-! SUPPORT. The fields of a request word (R80): each field of a word made of four fields is that field, and a word is made of its four fields. -/

namespace Sys2Proof

section
variable (op sel : BitVec 8) (a b : Word)

@[simp] theorem reqOp_mkRequest : reqOp (mkRequest op sel a b) = op := by
  apply BitVec.eq_of_getLsbD_eq
  intro i hi
  simp only [reqOp, mkRequest, BitVec.getLsbD_extractLsb', BitVec.getLsbD_append]
  simp [hi]

@[simp] theorem reqSel_mkRequest : reqSel (mkRequest op sel a b) = sel := by
  apply BitVec.eq_of_getLsbD_eq
  intro i hi
  simp only [reqSel, mkRequest, BitVec.getLsbD_extractLsb', BitVec.getLsbD_append]
  simp [hi]

@[simp] theorem reqA_mkRequest : reqA (mkRequest op sel a b) = a := by
  apply BitVec.eq_of_getLsbD_eq
  intro i hi
  simp only [reqA, mkRequest, BitVec.getLsbD_extractLsb', BitVec.getLsbD_append]
  have h1 : ¬ 16 + i < 8 := by omega
  have h2 : ¬ 16 + i - 8 < 8 := by omega
  have h3 : 16 + i - 8 - 8 = i := by omega
  simp [hi, h1, h2, h3]

@[simp] theorem reqB_mkRequest : reqB (mkRequest op sel a b) = b := by
  apply BitVec.eq_of_getLsbD_eq
  intro i hi
  simp only [reqB, mkRequest, BitVec.getLsbD_extractLsb', BitVec.getLsbD_append]
  have h1 : ¬ 48 + i < 8 := by omega
  have h2 : ¬ 48 + i - 8 < 8 := by omega
  have h3 : ¬ 48 + i - 8 - 8 < 32 := by omega
  have h4 : 48 + i - 8 - 8 - 32 = i := by omega
  simp [hi, h1, h2, h3, h4]

theorem reqHdr_mkRequest : reqHdr (mkRequest op sel a b) = (sel ++ op : BitVec 16) := by
  apply BitVec.eq_of_getLsbD_eq
  intro i hi
  simp only [reqHdr, mkRequest, BitVec.getLsbD_extractLsb', BitVec.getLsbD_append]
  by_cases h : i < 8
  · simp [hi, h]
  · have h1 : i - 8 < 8 := by omega
    simp [hi, h, h1]

end

/-- A request word is made of its four fields: no bit belongs to none. -/
theorem mkRequest_fields (r : ReqWord) : mkRequest (reqOp r) (reqSel r) (reqA r) (reqB r) = r := by
  apply BitVec.eq_of_getLsbD_eq
  intro i hi
  simp only [reqOp, reqSel, reqA, reqB, mkRequest, BitVec.getLsbD_extractLsb', BitVec.getLsbD_append]
  by_cases h1 : i < 8
  · simp [h1]
  · by_cases h2 : i - 8 < 8
    · simp [h1, h2, show 8 + (i - 8) = i by omega]
    · by_cases h3 : i - 8 - 8 < 32
      · simp [h1, h2, h3, show 16 + (i - 8 - 8) = i by omega]
      · simp [h1, h2, h3, show 48 + (i - 8 - 8 - 32) = i by omega, show i - 8 - 8 - 32 < 32 by omega]

/-- The header is `SEL` above `OP` (R80). -/
theorem reqHdr_eq (r : ReqWord) : reqHdr r = (reqSel r ++ reqOp r : BitVec 16) := by
  conv_lhs => rw [← mkRequest_fields r]
  rw [reqHdr_mkRequest]

/-- Decoding a word whose header a row selects builds that row's operation. -/
theorem decode_of_selectOp (r : ReqWord) (o : Op) (h : selectOp (reqHdr r) = some o) : decode r = .ok (o.build r) := by
  simp [decode, h]

/-- Decoding answers an operation only by a row that the header selects. -/
theorem decode_ok_inv (r : ReqWord) (i : Instr) (h : decode r = .ok i) :
    ∃ o, selectOp (reqHdr r) = some o ∧ i = o.build r := by
  unfold decode at h
  split at h
  · rename_i o ho
    exact ⟨o, ho, by cases h; rfl⟩
  · cases h

/-- The operation that a row builds belongs to that row. -/
@[simp] theorem op_build (o : Op) (r : ReqWord) : (o.build r).op = o := by cases o <;> rfl

/-! ## Which operation a header selects -/

/-- A mask and a pattern over the header are one over `SEL` and one over `OP`. -/
theorem append_and_beq (sel op mS mO pS pO : BitVec 8) :
    ((sel ++ op : BitVec 16) &&& (mS ++ mO) == (pS ++ pO)) = ((op &&& mO == pO) && (sel &&& mS == pS)) := by
  rw [Bool.eq_iff_iff]
  simp only [beq_iff_eq, Bool.and_eq_true]
  have e : (sel ++ op : BitVec 16) &&& (mS ++ mO) = (sel &&& mS) ++ (op &&& mO) := by
    apply BitVec.eq_of_getLsbD_eq; intro i hi; simp only [BitVec.getLsbD_and, BitVec.getLsbD_append]; split <;> simp
  rw [e]
  constructor
  · intro h
    have h' : ∀ i, ((sel &&& mS) ++ (op &&& mO) : BitVec 16).getLsbD i = (pS ++ pO : BitVec 16).getLsbD i := by intro i; rw [h]
    simp only [BitVec.getLsbD_append] at h'
    constructor
    · apply BitVec.eq_of_getLsbD_eq; intro i hi; simpa [hi] using h' i
    · apply BitVec.eq_of_getLsbD_eq; intro i hi; simpa using h' (8 + i)
  · rintro ⟨h1, h2⟩; rw [h1, h2]

/-- Looking a header up in the operation map, one row at a time. -/
theorem find?_opRow (o : Op) (p m : BitVec 16) (l : List OpRow) (h : BitVec 16) :
    List.find? (·.selects h) (⟨o, p, m⟩ :: l) = if (h &&& m == p) then some ⟨o,p,m⟩ else List.find? (·.selects h) l := by
  rw [List.find?_cons]
  simp only [OpRow.selects]
  cases (h &&& m == p) <;> rfl

/-- The operation map with each pattern and mask split into its `SEL` and its `OP` byte. -/
theorem opTable_split : opTable = [ ⟨.pulse, (0:BitVec 8) ++ (1:BitVec 8), (255:BitVec 8)++(255:BitVec 8)⟩,
    ⟨.gfcPulse, (0:BitVec 8) ++ (2:BitVec 8), (255:BitVec 8)++(255:BitVec 8)⟩,
    ⟨.a32Pulse, (1:BitVec 8) ++ (2:BitVec 8), (255:BitVec 8)++(255:BitVec 8)⟩,
    ⟨.p9Pulse, (2:BitVec 8) ++ (2:BitVec 8), (255:BitVec 8)++(255:BitVec 8)⟩,
    ⟨.ppmPulse, (3:BitVec 8) ++ (2:BitVec 8), (255:BitVec 8)++(255:BitVec 8)⟩,
    ⟨.dispReg, (0:BitVec 8) ++ (3:BitVec 8), (0xFC:BitVec 8)++(255:BitVec 8)⟩,
    ⟨.a32Marshal, (0:BitVec 8) ++ (0x10:BitVec 8), (255:BitVec 8)++(255:BitVec 8)⟩,
    ⟨.a32Unmarshal, (0:BitVec 8) ++ (0x11:BitVec 8), (0xFE:BitVec 8)++(255:BitVec 8)⟩,
    ⟨.p9Marshal, (0:BitVec 8) ++ (0x12:BitVec 8), (255:BitVec 8)++(255:BitVec 8)⟩,
    ⟨.ppmCh, (0:BitVec 8) ++ (0x20:BitVec 8), (0:BitVec 8)++(255:BitVec 8)⟩,
    ⟨.ppmChs, (0:BitVec 8) ++ (0x21:BitVec 8), (255:BitVec 8)++(255:BitVec 8)⟩,
    ⟨.ppmStale, (0:BitVec 8) ++ (0x22:BitVec 8), (255:BitVec 8)++(255:BitVec 8)⟩,
    ⟨.cfgWr, (0:BitVec 8) ++ (0x30:BitVec 8), (0:BitVec 8)++(255:BitVec 8)⟩,
    ⟨.cfgRd, (0:BitVec 8) ++ (0x31:BitVec 8), (0:BitVec 8)++(255:BitVec 8)⟩ ] := by rfl

/-- The operation a header selects, by its two fields: the map of R85 read as a case analysis. -/
theorem selectOp_append (sel op : BitVec 8) : selectOp (sel ++ op : BitVec 16) =
  if op = 1 ∧ sel = 0 then some .pulse
  else if op = 2 ∧ sel = 0 then some .gfcPulse
  else if op = 2 ∧ sel = 1 then some .a32Pulse
  else if op = 2 ∧ sel = 2 then some .p9Pulse
  else if op = 2 ∧ sel = 3 then some .ppmPulse
  else if op = 3 ∧ sel &&& 0xFC = 0 then some .dispReg
  else if op = 0x10 ∧ sel = 0 then some .a32Marshal
  else if op = 0x11 ∧ sel &&& 0xFE = 0 then some .a32Unmarshal
  else if op = 0x12 ∧ sel = 0 then some .p9Marshal
  else if op = 0x20 then some .ppmCh
  else if op = 0x21 ∧ sel = 0 then some .ppmChs
  else if op = 0x22 ∧ sel = 0 then some .ppmStale
  else if op = 0x30 then some .cfgWr
  else if op = 0x31 then some .cfgRd
  else none := by
  have and255 : ∀ x : BitVec 8, x &&& 255 = x := fun _ => BitVec.and_allOnes
  rw [selectOp, opTable_split]
  simp only [find?_opRow, append_and_beq, and255, Bool.and_eq_true, beq_iff_eq, List.find?_nil]
  simp only [apply_ite (Option.map OpRow.op), Option.map_some, Option.map_none]
  have z2 : sel &&& (0:BitVec 8) = 0 := BitVec.and_zero
  simp only [z2, and_true]

/-- A request is refused exactly when no row selects its header. -/
theorem decode_error_iff (r : ReqWord) : (∃ e, decode r = .error e) ↔ selectOp (reqHdr r) = none := by
  unfold decode
  cases selectOp (reqHdr r) <;> simp

end Sys2Proof
end

