-- ==== Sys2Proof/Laws/Invariants.lean ====
section
/-! SUPPORT. Each decoder step keeps its own part of the invariants (R28). -/

namespace Sys2Proof.Machine

/-- A GFC step keeps the counter in range and the accumulator clear above it. -/
theorem gfcStep_inv (c : CfgRegs) (on off : Dur) (r : GfcRegs) (h1 : r.cnt.toNat ≤ 10)
    (h2 : ∀ k, r.cnt.toNat ≤ k → r.acc.getLsbD k = false) :
    (gfcStep c on off r).1.cnt.toNat ≤ 10
    ∧ ∀ k, (gfcStep c on off r).1.cnt.toNat ≤ k → (gfcStep c on off r).1.acc.getLsbD k = false := by
  rcases gfcStep_cases c on off r with ⟨_, h⟩ | ⟨_, _, h⟩ | ⟨_, hn, h⟩ <;> rw [h]
  · simp
  · exact ⟨h1, h2⟩
  · have e : (r.cnt + 1).toNat = r.cnt.toNat + 1 := by simp [BitVec.toNat_add]; omega
    simp only [e]
    exact ⟨by omega, fun k hk => setBit_clear_above _ _ _ h2 k hk⟩

/-- An A32 step keeps the counter in range and the accumulator clear above it. -/
theorem a32Step_inv (c : CfgRegs) (on off : Dur) (r : A32Regs) (h1 : r.cnt.toNat ≤ 32)
    (h2 : ∀ k, r.cnt.toNat ≤ k → r.acc.getLsbD k = false) :
    (a32Step c on off r).1.cnt.toNat ≤ 32
    ∧ ∀ k, (a32Step c on off r).1.cnt.toNat ≤ k → (a32Step c on off r).1.acc.getLsbD k = false := by
  rcases a32Step_cases c on off r with ⟨_, h⟩ | ⟨_, _, h⟩ | ⟨_, _, _, h⟩ | ⟨_, _, hn, h⟩ <;> rw [h]
  · exact ⟨h1, h2⟩
  · dsimp only
    split
    · simp
    · exact ⟨h1, h2⟩
  · exact ⟨h1, h2⟩
  · have e : (r.cnt + 1).toNat = r.cnt.toNat + 1 := by simp [BitVec.toNat_add]; omega
    simp only [e]
    exact ⟨by omega, fun k hk => setBit_clear_above _ _ _ h2 k hk⟩

/-- A P9 step keeps the counter in range, the accumulator clear above it and the parity flag its parity. -/
theorem p9Step_inv (c : CfgRegs) (off : Dur) (r : P9Regs) (h1 : r.cnt.toNat ≤ 8)
    (h2 : ∀ k, r.cnt.toNat ≤ k → r.acc.getLsbD k = false) (h3 : r.par = parity r.acc) :
    (p9Step c off r).1.cnt.toNat ≤ 8
    ∧ (∀ k, (p9Step c off r).1.cnt.toNat ≤ k → (p9Step c off r).1.acc.getLsbD k = false)
    ∧ (p9Step c off r).1.par = parity (p9Step c off r).1.acc := by
  have z : parity (0 : BitVec 9) = false := by decide
  have e : (r.cnt + 1).toNat = r.cnt.toNat + 1 := by simp [BitVec.toNat_add]; omega
  rcases p9Step_cases c off r with ⟨_, h⟩ | ⟨_, _, h⟩ | ⟨_, hn, h⟩ <;> rw [h]
  · exact ⟨by simp, by simp, z.symm⟩
  · exact ⟨by simp, by simp, z.symm⟩
  · rw [e] at hn
    simp only [e]
    refine ⟨by omega, ?_, ?_⟩
    · intro k hk
      split
      · exact setBit_clear_above _ _ _ h2 k hk
      · exact h2 k (by omega)
    · cases above off c.p9OneDeassert
      · simpa using h3
      · simp [parity_setBit r.acc r.cnt.toNat (by omega) (h2 _ (Nat.le_refl _)), h3]

/-- A PPM step keeps the channel index in range. -/
theorem ppmStep_idx_le (c : CfgRegs) (now : Time) (on off : Dur) (r : PpmRegs) (h1 : r.idx.toNat ≤ 16) :
    (ppmStep c now on off r).idx.toNat ≤ 16 := by
  rcases ppmStep_cases c now on off r with ⟨_, h⟩ | ⟨_, _, h⟩ | ⟨_, _, i, hi, hn, h⟩ <;> rw [h]
  · simp
  · exact h1
  · have := i.isLt
    have e : (r.idx + 1).toNat = r.idx.toNat + 1 := by simp [BitVec.toNat_add]; omega
    simp only [e]
    omega

/-- A PPM step never clears `ppm_synced` (R30). -/
theorem ppmStep_synced (c : CfgRegs) (now : Time) (on off : Dur) (r : PpmRegs) (h : r.synced = true) :
    (ppmStep c now on off r).synced = true := by
  rcases ppmStep_cases c now on off r with ⟨_, e⟩ | ⟨_, _, e⟩ | ⟨_, _, i, _, _, e⟩ <;> rw [e] <;> first | rfl | exact h

/-- The invariants do not depend on the ports, on channel values, on `ppm_last`, on `ppm_synced` or on the entries of the dispatcher list. -/
theorem State.Inv.congr {s t : State} (h : s.Inv) (h1 : t.gfc = s.gfc) (h2 : t.a32 = s.a32) (h3 : t.p9 = s.p9)
    (h4 : t.ppm.idx = s.ppm.idx) (h5 : t.disp.len = s.disp.len) (h6 : t.cfg = s.cfg) : t.Inv := by
  obtain ⟨a, b, c, d, e, f, g, i, j, k, l, m⟩ := h
  constructor <;> (first | rw [h1] | rw [h2] | rw [h3] | rw [h4] | rw [h5] | rw [h6]) <;> assumption

end Sys2Proof.Machine
end

