-- ==== Sys2Proof/Laws/PerInstr.lean ====
section
/-! SUPPORT. Facts about every operation, one lemma a constructor. -/

namespace Sys2Proof.Laws

/-- The header that the encoder writes for the operation is legal by R90. -/
def HeaderLegal.Statement (i : Instr) : Prop := headerLegal (reqOp (encode i)) (reqSel (encode i)) = true

namespace HeaderLegal

theorem pulse (on off : Dur) : Statement (.pulse on off) := by simp only [Statement, encode, reqOp_mkRequest, reqSel_mkRequest]; decide

theorem gfcPulse (on off : Dur) : Statement (.gfcPulse on off) := by simp only [Statement, encode, reqOp_mkRequest, reqSel_mkRequest]; decide

theorem a32Pulse (on off : Dur) : Statement (.a32Pulse on off) := by simp only [Statement, encode, reqOp_mkRequest, reqSel_mkRequest]; decide

theorem p9Pulse (on off : Dur) : Statement (.p9Pulse on off) := by simp only [Statement, encode, reqOp_mkRequest, reqSel_mkRequest]; decide

theorem ppmPulse (on off : Dur) : Statement (.ppmPulse on off) := by simp only [Statement, encode, reqOp_mkRequest, reqSel_mkRequest]; decide

theorem dispReg (id : DecoderId) : Statement (.dispReg id) := by
  simp only [Statement, encode, reqOp_mkRequest, reqSel_mkRequest]
  cases id <;> decide

theorem a32Marshal (word : Word) : Statement (.a32Marshal word) := by simp only [Statement, encode, reqOp_mkRequest, reqSel_mkRequest]; decide

theorem a32Unmarshal (dst : Bool) (word : Word) : Statement (.a32Unmarshal dst word) := by
  simp only [Statement, encode, reqOp_mkRequest, reqSel_mkRequest]
  cases dst <;> decide

theorem p9Marshal (operand : Word) : Statement (.p9Marshal operand) := by simp only [Statement, encode, reqOp_mkRequest, reqSel_mkRequest]; decide

theorem ppmCh (index : BitVec 8) : Statement (.ppmCh index) := by
  simp only [Statement, encode, reqOp_mkRequest, reqSel_mkRequest]
  revert index
  decide

theorem ppmChs : Statement .ppmChs := by simp only [Statement, encode, reqOp_mkRequest, reqSel_mkRequest]; decide

theorem ppmStale : Statement .ppmStale := by simp only [Statement, encode, reqOp_mkRequest, reqSel_mkRequest]; decide

theorem cfgWr (reg : BitVec 8) (value : Word) : Statement (.cfgWr reg value) := by
  simp only [Statement, encode, reqOp_mkRequest, reqSel_mkRequest]
  revert reg
  decide

theorem cfgRd (reg : BitVec 8) : Statement (.cfgRd reg) := by
  simp only [Statement, encode, reqOp_mkRequest, reqSel_mkRequest]
  revert reg
  decide

end HeaderLegal

end Sys2Proof.Laws
end

