-- ==== Sys2Proof/Laws/Run.lean ====
section
/-! SUPPORT. Runs: one step more, two runs joined, lists of operations joined. -/

namespace Sys2Proof.Machine

/-- A run whose first step is known. -/
theorem run_succ (k : Nat) (s t : State) (h : step s = .next t) :
    Host.Core.run Sys2Proof.core (k + 1) s = Host.Core.run Sys2Proof.core k t := by
  conv_lhs => simp only [Host.Core.run]
  rw [show Sys2Proof.core.step s = step s from rfl, h]

/-- A run continued. -/
theorem run_append (a b : Nat) (s t : State) (h : Host.Core.run Sys2Proof.core a s = .next t) :
   Host.Core.run Sys2Proof.core (a + b) s = Host.Core.run Sys2Proof.core b t := by
  induction a generalizing s with
  | zero => cases h; rw [Nat.zero_add]
  | succ a ih =>
    rw [show a + 1 + b = (a + b) + 1 by omega]
    simp only [Host.Core.run] at h ⊢
    cases hs : Sys2Proof.core.step s with
    | next u => rw [hs] at h; exact ih u h
    | fault u => exact nomatch u
    | refused u => rw [hs] at h; cases h

/-- The operations of two lists one after another. -/
theorem execAll_append (is js : List Instr) (s t : State) (h : execAll is s = .next t) : execAll (is ++ js) s = execAll js t := by
  induction is generalizing s with
  | nil => cases h; rfl
  | cons i is ih =>
    simp only [execAll, List.cons_append] at h ⊢
    cases he : exec i s with
    | next u => rw [he] at h; exact ih u h
    | fault f => exact nomatch f
    | refused f => rw [he] at h; cases h

/-- The operation of a decoder is its step and the response. -/
theorem exec_pulseOpOf (id on off) (s : State) : exec (pulseOpOf id on off) s = .next ((s.stepDecoder id on off).respond .ok []) := by cases id <;> rfl

end Sys2Proof.Machine
end

