-- ==== Sys2Proof/Tests/Slice0.lean ====
section
/-! SUPPORT. The model's own tests: well-formedness, decoding by words written out from the spec, one or two single steps an operation, and a
witness for the hypotheses of each statement. Every expected value is the spec's: the vector or rule is named. -/

namespace Sys2Proof.Machine.Tests

/-! ## Helpers -/

/-- The next state, where there is one. -/
def next? : Host.Outcome State Fault Refusal → Option State
  | .next t => some t
  | .fault _ => none
  | .refused _ => none

/-- Part of the state after one operation. -/
def after {α : Type} (i : Instr) (s : State) (f : State → α) : Option α := (next? (exec i s)).map f

/-- The response, status and data, of one operation. -/
def answer (i : Instr) (s : State) : Option (List Response) := after i s State.responses

/-- A state in mid-frame everywhere, with a marker seen at 5 s and now = 5.1 s. -/
def mid : State :=
  { State.reset with
    gfc := { acc := 0x015, cnt := 5 }
    a32 := { acc := 0x5, cnt := 3 }
    p9 := { acc := 0x3, cnt := 2, par := false }
    ppm := { PpmRegs.reset with ch := PpmRegs.reset.ch.set 0 2000000, idx := 3, last := 5000000000, synced := true }
    disp := { len := 1, list := DispRegs.reset.list }
    now := 5100000000 }

/-- `mid` with these presented next. -/
def midWith (xs : List Input) : State := { mid with inputs := xs }

/-- Two channels, as in V-PPM-4 to V-PPM-8: the marker at 5 s, then the stored values. -/
def twoChannels : State :=
  { State.reset with
    ppm := { ch := (PpmRegs.reset.ch.set 0 2000000).set 1 3000000, idx := 2, last := 5000000000, synced := true }
    cfg := { CfgRegs.reset with ppmNch := 2 }
    now := 5100000000 }

/-! ## Well-formedness: a header that each check refuses (R90) -/

theorem test_header_unassigned_op : headerLegal 0x13 0 = false := by decide

theorem test_header_sel_not_zero : headerLegal 0x01 1 = false := by decide

theorem test_header_no_such_decoder : headerLegal 0x02 4 = false := by decide

theorem test_header_dst_reserved_bits : headerLegal 0x11 2 = false := by decide

theorem test_header_legal : headerLegal 0x20 255 = true ∧ headerLegal 0x03 3 = true ∧ headerLegal 0x11 1 = true := by decide

/-! ## Decoding: words written out from R80 and R85, `B` `A` `SEL` `OP` -/

theorem test_decode_pulse : decode 0x0044AA20_00895440_00_01#80 = .ok (.pulse 9000000 4500000) := by decide

theorem test_decode_gfcPulse : decode 0x000F4241_006ACFC0_00_02#80 = .ok (.gfcPulse 7000000 1000001) := by decide

theorem test_decode_a32Pulse : decode 0x00089544_0019BFCC_01_02#80 = .ok (.a32Pulse 1687500 562500) := by decide

theorem test_decode_p9Pulse : decode 0x00186A01_0007A120_02_02#80 = .ok (.p9Pulse 500000 1600001) := by decide

theorem test_decode_ppmPulse : decode 0x00079F2C_000F4240_03_02#80 = .ok (.ppmPulse 1000000 499500) := by decide

theorem test_decode_dispReg : decode 0x00000000_00000000_03_03#80 = .ok (.dispReg .ppm) := by decide

theorem test_decode_a32Marshal : decode 0x00000000_56781234_00_10#80 = .ok (.a32Marshal 0x56781234) := by decide

theorem test_decode_a32Unmarshal : decode 0x00000000_BEEF0042_01_11#80 = .ok (.a32Unmarshal true 0xBEEF0042) := by decide

theorem test_decode_p9Marshal : decode 0x00000000_00000100_00_12#80 = .ok (.p9Marshal 0x100) := by decide

theorem test_decode_ppmCh : decode 0x00000000_00000000_0F_20#80 = .ok (.ppmCh 15) := by decide

theorem test_decode_ppmChs : decode 0x00000000_00000000_00_21#80 = .ok .ppmChs := by decide

theorem test_decode_ppmStale : decode 0x00000000_00000000_00_22#80 = .ok .ppmStale := by decide

theorem test_decode_cfgWr : decode 0x00000000_00000010_0B_30#80 = .ok (.cfgWr 0x0B 16) := by decide

theorem test_decode_cfgRd : decode 0x00000000_00000000_30_31#80 = .ok (.cfgRd 0x30) := by decide

/-- The reserved headers of the vectors, section Decode: each refused by the name of its bullet of R90. -/
theorem test_decode_reserved :
    decode 0x0000#80 = .error (.unassignedOp 0) ∧ decode 0x0101#80 = .error (.selNotZero 0x01 1)
    ∧ decode 0x0402#80 = .error (.noSuchDecoder 0x02 4) ∧ decode 0x0403#80 = .error (.noSuchDecoder 0x03 4)
    ∧ decode 0x0211#80 = .error (.dstFlagReservedBits 2) ∧ decode 0x0112#80 = .error (.selNotZero 0x12 1)
    ∧ decode 0x0121#80 = .error (.selNotZero 0x21 1) ∧ decode 0x0122#80 = .error (.selNotZero 0x22 1)
    ∧ decode 0xFFFF#80 = .error (.unassignedOp 0xFF) := by decide

/-- The operation map's row for CFG.WR, as the table numbers its bits, and a row longer than a request. -/
theorem test_decodeTableWord : decodeTableWord 16 0x0B30 = some (.cfgWr 0x0B 0) ∧ decodeTableWord 88 0x0B30 = none := by decide

/-! ## The codes of the ports (R50, R95) -/

theorem test_status_codes : [Status.ok, .illegalOp, .nullDest, .badChannel, .dispFull, .badReg, .badValue, .badOperand].map Status.code
    = [0, 1, 2, 3, 4, 5, 6, 7] := by decide

theorem test_event_codes : [EventKind.gfc, .a32, .p9].map EventKind.code = [0, 1, 2] := by decide

/-! ## Steps -/

/-- V-DISP-3: two entries A32, so one PULSE steps A32 twice. -/
theorem test_pulse_twice : after (.pulse 1500000 500000) { State.reset with disp := { len := 2, list := Vector.replicate 8 .a32 } }
    (fun t => (t.a32.acc, t.a32.cnt, t.gfc.cnt)) = some (0x3, 2, 0) := by decide

/-- L1-5: list [GFC, P9], a pulse with s = 1 ms: GFC appends 0 (not above 1 ms), P9 appends 1. -/
theorem test_pulse_two : after (.pulse 500000 1000000) { State.reset with disp := { len := 2, list := DispRegs.reset.list.set 1 .p9 } }
    (fun t => (t.gfc, t.p9)) = some ({ acc := 0, cnt := 1 }, { acc := 1, cnt := 1, par := true }) := by decide

/-- V-GFC-2: a equal to the start threshold is data. -/
theorem test_gfcPulse_threshold : after (.gfcPulse 7000000 1000001) State.reset State.gfc = some { acc := 0x001, cnt := 1 } := by decide

/-- L1-1, step 11: the tenth bit and its event. -/
theorem test_gfcPulse_event : after (.gfcPulse 500000 1500000) { State.reset with gfc := { acc := 0x15B, cnt := 9 } }
    (fun t => (t.gfc, t.events)) = some ({ acc := 0x35B, cnt := 10 }, [{ kind := .gfc, payload := 0x35B }]) := by decide

/-- V-A32-1: the repeat band, even with a start-qualifying assert. -/
theorem test_a32Pulse_repeat : after (.a32Pulse 9000000 10000001) mid State.a32 = some { acc := 0x5, cnt := 3 } := by decide

/-- V-A32-4: s equal to the start threshold is data. -/
theorem test_a32Pulse_data : after (.a32Pulse 1000001 3000000) mid State.a32 = some { acc := 0xD, cnt := 4 } := by decide

/-- V-P9-2: s equal to the start threshold is data. -/
theorem test_p9Pulse_data : after (.p9Pulse 500000 1600000) State.reset State.p9 = some { acc := 1, cnt := 1, par := true } := by decide

/-- L1-3: data 0x03 with the parity pulse 1 is delivered, and the decoder is clear. -/
theorem test_p9Pulse_event : after (.p9Pulse 500000 1000000) { State.reset with p9 := { acc := 0x3, cnt := 8, par := false } }
    (fun t => (t.p9, t.events)) = some ({ acc := 0, cnt := 0, par := false }, [{ kind := .p9, payload := 0x03 }]) := by decide

/-- L1-4: 1499500 rounds up to 1500000. -/
theorem test_ppmPulse_half_up : after (.ppmPulse 1000000 499500) { State.reset with ppm := { PpmRegs.reset with synced := true } }
    (fun t => (t.ppm.ch[0], t.ppm.ch[1], t.ppm.idx)) = some (1500000, 0, 1) := by decide

/-- V-PPM-11: a sum of 33 bits is rounded exactly and saturated. -/
theorem test_ppmPulse_saturates : after (.ppmPulse 0xFFFFFFFF 0xFFFFFFFF)
    { State.reset with ppm := { PpmRegs.reset with synced := true, idx := 2 }, cfg := { CfgRegs.reset with ppmSyncAssert := 0xFFFFFFFF } }
    (fun t => (t.ppm.ch[2], t.ppm.idx)) = some (0xFFFFFFFF, 3) := by decide

/-- L1-5: the second registration goes to position 1. -/
theorem test_dispReg : after (.dispReg .p9) { State.reset with disp := { len := 1, list := DispRegs.reset.list } }
    (fun t => (t.disp.list[0], t.disp.list[1], t.disp.len)) = some (.gfc, .p9, 2) := by decide

/-- V-DISP-2: the ninth registration. -/
theorem test_dispReg_full : after (.dispReg .a32) { State.reset with disp := { len := 8, list := Vector.replicate 8 .a32 } }
    (fun t => (t.responses, t.disp.len)) = some ([{ status := .dispFull, data := [] }], 8) := by decide

/-- V-A32-7. -/
theorem test_a32Marshal_zero : after (.a32Marshal 0) State.reset State.txPairs
    = some ({ on := 9000000, off := 4500000 } :: List.replicate 33 { on := 562500, off := 562500 }) := by decide

/-- L1-2: the order of the bits of 0x56781234. -/
theorem test_a32Marshal_order : after (.a32Marshal 0x56781234) State.reset
    (fun t => ((t.txPairs.drop 1).take 32).map (fun p => if p.on = 1687500 then 1 else 0))
    = some ([0,0,1,0,1,1,0,0, 0,1,0,0,1,0,0,0, 0,0,0,1,1,1,1,0, 0,1,1,0,1,0,1,0] : List Nat) := by decide

/-- V-A32-9. -/
theorem test_a32Unmarshal : answer (.a32Unmarshal true 0xBEEF0042) State.reset = some [{ status := .ok, data := [0x42, 0xBEEF] }] := by decide

/-- L1-6. -/
theorem test_a32Unmarshal_null : answer (.a32Unmarshal false 0x56781234) State.reset = some [{ status := .nullDest, data := [] }] := by decide

/-- V-P9-5. -/
theorem test_p9Marshal : after (.p9Marshal 0x03) State.reset State.txPairs
    = some ({ on := 500000, off := 2000000 } :: List.replicate 2 { on := 500000, off := 1000000 }
      ++ List.replicate 6 { on := 500000, off := 500000 } ++ [{ on := 500000, off := 1000000 }]) := by decide

/-- V-P9-8. -/
theorem test_p9Marshal_bad : after (.p9Marshal 0x100) State.reset (fun t => (t.responses, t.txPairs))
    = some ([{ status := .badOperand, data := [] }], []) := by decide

/-- V-PPM-13: exactly the timeout after the marker the live value is read. -/
theorem test_ppmCh_live : answer (.ppmCh 0) { mid with now := 5600000000 } = some [{ status := .ok, data := [2000000] }] := by decide

/-- V-PPM-13 and V-PPM-6: one later the safe value; a channel outside the configured ones. -/
theorem test_ppmCh_safe : answer (.ppmCh 0) { mid with now := 5600000001 } = some [{ status := .ok, data := [0] }]
    ∧ answer (.ppmCh 2) twoChannels = some [{ status := .badChannel, data := [] }] := by decide

/-- V-PPM-5. -/
theorem test_ppmChs_live : answer .ppmChs twoChannels = some [{ status := .ok, data := [2000000, 3000000] }] := by decide

/-- V-PPM-7: the whole safe array. -/
theorem test_ppmChs_safe : answer .ppmChs
    { twoChannels with cfg := { twoChannels.cfg with ppmSafe := CfgRegs.reset.ppmSafe.set 1 1500000 }, now := 6000000000 }
    = some [{ status := .ok, data := [0, 1500000] }] := by decide

/-- V-PPM-2: never synced. -/
theorem test_ppmStale_reset : answer .ppmStale State.reset = some [{ status := .ok, data := [1] }] := by decide

/-- V-PPM-8: `now` before the latest marker wraps. -/
theorem test_ppmStale_wraps : answer .ppmStale { twoChannels with now := 4000000000 } = some [{ status := .ok, data := [1] }]
    ∧ answer .ppmStale twoChannels = some [{ status := .ok, data := [0] }] := by decide

/-- V-CFG-4: 17 is no channel count. -/
theorem test_cfgWr_bad_value : after (.cfgWr 0x0B 17) State.reset (fun t => (t.responses, t.cfg.ppmNch))
    = some ([{ status := .badValue, data := [] }], 16) := by decide

/-- P4: CFG.WR GFC_ONE_DEASSERT, 300000. -/
theorem test_cfgWr : after (.cfgWr 0x01 300000) State.reset (fun t => (t.responses, t.cfg.gfcOneDeassert, t.cfg.gfcStartAssert))
    = some ([{ status := .ok, data := [] }], 300000, 7000000) := by decide

/-- V-CFG-1. -/
theorem test_cfgRd : answer (.cfgRd 0x00) State.reset = some [{ status := .ok, data := [0x006ACFC0] }] := by decide

/-- V-CFG-8. -/
theorem test_cfgRd_bad : answer (.cfgRd 0x30) State.reset = some [{ status := .badReg, data := [] }] := by decide

/-- A reserved request answers ERR_ILLEGAL_OP and takes the request's `now` (R90, R242). -/
theorem test_step_reserved : (next? (step (midWith [.request 0x0013#80 6000000000]))).map (fun t => (t.responses, t.now, t.inputs))
    = some ([{ status := .illegalOp, data := [] }], 6000000000, []) := by decide

/-! ## The pulse-order duty (R74): a marker that occurred before a data pulse -/

def markerThenData : List PulsePair := [{ on := 8000000, off := 0 }, { on := 500000, off := 1500000 }]

/-- One occurrence may go through several operations. -/
theorem test_pulseOrder_kept : PulseOrder markerThenData
    (requestsAt 7 [.gfcPulse 8000000 0, .pulse 8000000 0, .cfgRd 0, .gfcPulse 500000 1500000]) :=
  ⟨[0, 0, 1], by decide, by decide, by decide⟩

/-- The data pulse first breaks the duty, although each operation on its own sees an ordered stream. -/
theorem test_pulseOrder_broken : ¬ PulseOrder markerThenData (requestsAt 7 [.gfcPulse 500000 1500000, .pulse 8000000 0]) := by
  rintro ⟨times, h, hs, -⟩
  rw [show (presentedPulses (requestsAt 7 [.gfcPulse 500000 1500000, .pulse 8000000 0])).map (fun q => some q.2)
    = [some { on := 500000, off := 1500000 }, some { on := 8000000, off := 0 }] by decide] at h
  match times, h, hs with
  | [a, b], h, hs =>
    simp only [List.map_cons, List.map_nil, List.cons.injEq, and_true] at h
    have ha : a = 1 := by
      match a, h.1 with
      | 0, e => exact absurd e (by decide)
      | 1, _ => rfl
      | k + 2, e => simp [markerThenData] at e
    have hb : b = 0 := by
      match b, h.2 with
      | 0, _ => rfl
      | 1, e => exact absurd e (by decide)
      | k + 2, e => simp [markerThenData] at e
    subst ha hb
    exact absurd hs (by decide)
  | [], h, _ => simp at h
  | [_], h, _ => simp at h
  | _ :: _ :: _ :: _, h, _ => simp at h

/-- The same occurrence twice through one operation breaks it too. -/
theorem test_pulseOrder_once : ¬ PulseOrder [{ on := 8000000, off := 0 }] (requestsAt 7 [.pulse 8000000 0, .pulse 8000000 0]) := by
  rintro ⟨times, h, -, hn⟩
  rw [show presentedPulses (requestsAt 7 [.pulse 8000000 0, .pulse 8000000 0])
    = [(.pulse, { on := 8000000, off := 0 }), (.pulse, { on := 8000000, off := 0 })] by decide] at h hn
  match times, h, hn with
  | [0, 0], _, hn => exact absurd hn (by decide)
  | [_, _ + 1], h, _ => simp at h
  | [_ + 1, 0], h, _ => simp at h
  | [], h, _ => simp at h
  | [_], h, _ => simp at h
  | _ :: _ :: _ :: _, h, _ => simp at h

/-! ## The assembler -/

/-- P3: the two requests of two lines, the second with the first one's `now`. -/
theorem test_assemble : assemble ["@10ms PPM.CHS ; safe".toList, "PPM.CH 3".toList]
    = some [.request 0x0021#80 10000000, .request 0x0320#80 10000000] := by decide

theorem test_asm_refuses : asmLine? "PULSE 5000ms, 1".toList = none ∧ asmLine? "PPM.CHS 1".toList = none ∧ asmLine? "DISP.REG XYZ".toList = none := by
  decide

/-! ## Witnesses: concrete states and operands that meet a statement's hypotheses -/

theorem witness_EncodeOfDecodeKeepsUsedFields :
    (decode 0x0007A120_000F4240_0302#80 = .ok (.ppmPulse 1000000 500000) ∧ (Instr.ppmPulse 1000000 500000).op ∈ [Op.pulse, .gfcPulse, .a32Pulse, .p9Pulse, .ppmPulse])
    ∧ decode 0xFFFFFFFF_00000005_2F30#80 = .ok (.cfgWr 0x2F 5) ∧ (Instr.cfgWr 0x2F 5).op ∈ [Op.a32Marshal, .a32Unmarshal, .p9Marshal, .cfgWr] := by decide

theorem witness_HeaderAloneSelectsTheOperation : reqHdr 0x00000001_00000002_FF20#80 = reqHdr 0x00000003_00000004_FF20#80
    ∧ (decode 0x00000001_00000002_FF20#80).toOption.map Instr.op = some Op.ppmCh := by decide

theorem witness_OperationMapRowsDoNotOverlap : (⟨.dispReg, 0x0003, 0xFCFF⟩ : OpRow) ∈ opTable ∧ (⟨.dispReg, 0x0003, 0xFCFF⟩ : OpRow).selects 0x0303 := by decide

/-- One request for each bullet of R90, at the boundary of its range. -/
theorem witness_ReservedRequestsAreAnsweredIllegalOp :
    (midWith [.request 0x0013#80 7]).inputs = .request 0x0013#80 7 :: [] ∧ decode 0x0013#80 = .error (.unassignedOp 0x13)
    ∧ decode 0x0122#80 = .error (.selNotZero 0x22 1) ∧ decode 0x0403#80 = .error (.noSuchDecoder 3 4) ∧ decode 0x0303#80 = .ok (.dispReg .ppm)
    ∧ decode 0x0211#80 = .error (.dstFlagReservedBits 2) ∧ decode 0x0111#80 = .ok (.a32Unmarshal true 0) := by decide

theorem witness_StepRunsTheDecodedOperation :
    (midWith [.request 0x0022#80 7]).inputs = .request 0x0022#80 7 :: [] ∧ decode 0x0022#80 = .ok .ppmStale := by decide

theorem witness_PresentedWordIsRunNext : decodeTableWord 16 0x0B30 = some (.cfgWr 0x0B 0) := by decide

theorem witness_IdleBlockKeepsItsState : mid.inputs = [] := by decide

theorem witness_ResetInputRestoresEveryRegister : (midWith [.reset, .request 0x0022#80 7]).inputs = .reset :: [.request 0x0022#80 7] := by decide

/-- A state with every register at its reset value that is not `State.reset`. -/
theorem witness_RightAfterResetStaleAndNoMember : ResetValues { State.reset with now := 7, out := [okResponse] } := by
  constructor <;> decide

/-- The invariants hold in mid-frame. -/
theorem mid_inv (xs : List Input) : (midWith xs).Inv := by
  have above : ∀ {w : Nat} (v : BitVec w) (n : Nat), v.toNat < 2 ^ n → ∀ k, n ≤ k → v.getLsbD k = false := by
    intro w v n h k hk
    rw [BitVec.getLsbD]
    exact Nat.testBit_lt_two_pow (Nat.lt_of_lt_of_le h (Nat.pow_le_pow_right (by decide) hk))
  constructor
  case gfcAcc => exact above (0x015 : BitVec 10) 5 (by decide)
  case a32Acc => exact above (0x5 : BitVec 32) 3 (by decide)
  case p9Acc => exact above (0x3 : BitVec 9) 2 (by decide)
  all_goals simp only [midWith, mid]; decide

theorem witness_StepKeepsTheInvariants : ∃ t, (midWith [.request 0x00089544_0019BFCC_01_02#80 5200000000]).Inv
    ∧ step (midWith [.request 0x00089544_0019BFCC_01_02#80 5200000000]) = .next t ∧ t.a32.cnt = 4 := ⟨_, mid_inv _, rfl, rfl⟩

/-- A state that no run reaches, outside the invariants, with the reset input presented. -/
theorem witness_StepKeepsTheInvariants_reset : ∃ t, ({ mid with gfc := { acc := 0, cnt := 15 }, inputs := [.reset] } : State).inputs = .reset :: []
    ∧ ¬ ({ mid with gfc := { acc := 0, cnt := 15 }, inputs := [.reset] } : State).gfc.cnt.toNat ≤ 10
    ∧ step { mid with gfc := { acc := 0, cnt := 15 }, inputs := [.reset] } = .next t := ⟨_, rfl, by decide, rfl⟩

/-- A failing operation, for the statements on failed operations and error statuses; each error's own test stands above. -/
theorem witness_FailedOperationHasNoOtherEffect : answer (.a32Unmarshal false 5) mid = some [{ status := .nullDest, data := [] }]
    ∧ answer (.cfgWr 0x0A 0) mid = some [{ status := .badValue, data := [] }] ∧ answer (.cfgWr 0x0C 0) mid = some [{ status := .badReg, data := [] }] := by decide

theorem witness_PulseOperationsAlwaysAnswerOk : (pulsePair? (.pulse 0 0xFFFFFFFF)).isSome ∧ (pulsePair? (.ppmPulse 0 0)).isSome := by decide

/-- Each kind of register is written by an operation. -/
theorem witness_OperationsWriteOnlyTheirOwnRegisters :
    after (.pulse 8000000 0) mid (fun t => decide (t.gfc ≠ mid.gfc)) = some true
    ∧ after (.a32Pulse 0 0) mid (fun t => decide (t.a32 ≠ mid.a32)) = some true ∧ after (.p9Pulse 0 0) mid (fun t => decide (t.p9 ≠ mid.p9)) = some true
    ∧ after (.ppmPulse 0 0) mid (fun t => decide (t.ppm ≠ mid.ppm)) = some true ∧ after (.dispReg .gfc) mid (fun t => decide (t.disp ≠ mid.disp)) = some true
    ∧ after (.cfgWr 0 0) mid (fun t => decide (t.cfg ≠ mid.cfg)) = some true := by decide

/-- Two states that differ, with the same configuration and, in turn, the same registers of each decoder. -/
theorem witness_DecoderStepReadsOnlyItsOwnRegisters :
    (mid.cfg = State.reset.cfg ∧ mid.gfc = { State.reset with gfc := mid.gfc }.gfc ∧ mid ≠ { State.reset with gfc := mid.gfc })
    ∧ mid.a32 = { State.reset with a32 := mid.a32 }.a32 ∧ mid.p9 = { State.reset with p9 := mid.p9 }.p9
    ∧ mid.ppm = { State.reset with ppm := mid.ppm, now := mid.now }.ppm ∧ mid.now = { State.reset with ppm := mid.ppm, now := mid.now }.now := by decide

theorem witness_TimeMattersOnlyToPpmOperations : (Instr.p9Pulse 1 2).op ∉ [Op.pulse, .ppmPulse, .ppmCh, .ppmChs, .ppmStale] := by decide

theorem witness_OnlyResetClearsSynced : ∃ t, step (midWith [.reset]) = .next t ∧ (midWith [.reset]).ppm.synced = true ∧ t.ppm.synced = false :=
  ⟨_, rfl, rfl, rfl⟩

theorem witness_OutputsAreNeverWithdrawn : ∃ t, step (midWith [.request 0x0022#80 7]) = .next t ∧ t.out ≠ [] := ⟨_, rfl, by decide⟩

theorem witness_ReadsHaveNoSideEffectAndRepeat : (Instr.cfgRd 5).op ∈ [Op.cfgRd, .ppmCh, .ppmChs, .ppmStale]
    ∧ Instr.ppmChs.op ∈ [Op.cfgRd, .ppmCh, .ppmChs, .ppmStale] := by decide

theorem witness_UnusedOperandsAreIgnored :
    (decode 0x0321#80 ≠ .ok .ppmChs ∧ decode 0x0021#80 = .ok .ppmChs ∧ reqHdr 0x0021#80 = reqHdr 0x11111111_22222222_0021#80
      ∧ Instr.ppmChs.op ∈ [Op.dispReg, .ppmCh, .ppmChs, .ppmStale, .cfgRd])
    ∧ decode 0x00000003_0012#80 = .ok (.p9Marshal 3) ∧ reqHdr 0x00000003_0012#80 = reqHdr 0x11111111_00000003_0012#80
    ∧ reqA 0x00000003_0012#80 = reqA 0x11111111_00000003_0012#80 ∧ (Instr.p9Marshal 3).op ∈ [Op.a32Marshal, .a32Unmarshal, .p9Marshal, .cfgWr] := by decide

/-! ### GFC: the least start marker, the greatest data pulse; counters 0, 9 and 10 -/

theorem witness_GfcStartMarkerClears : mid.cfg.gfcStartAssert.toNat < (7000001 : Dur).toNat := by decide

theorem witness_GfcClampedIgnoresDataPulses : (7000000 : Dur).toNat ≤ mid.cfg.gfcStartAssert.toNat
    ∧ ({ mid with gfc := { acc := 0x35B, cnt := 10 } } : State).gfc.cnt.toNat = 10 := by decide

theorem witness_GfcDataPulseAppendsItsBit : (7000000 : Dur).toNat ≤ mid.cfg.gfcStartAssert.toNat
    ∧ ({ mid with gfc := { acc := 0x15B, cnt := 9 } } : State).gfc.cnt.toNat < 10 := by decide

/-- Ten alternating pulses after a start marker. -/
def tenPulses (k : Fin 10) : PulsePair := { on := 500000, off := if k.val % 2 = 0 then 1500000 else 500000 }

theorem witness_GfcTenPulsesYieldOneEvent :
    (midWith (requestsAt 7 (.gfcPulse 8000000 0 :: (List.finRange 10).map (fun k => .gfcPulse (tenPulses k).on (tenPulses k).off)) ++ [.reset])).inputs
      = requestsAt 7 (.gfcPulse 8000000 0 :: (List.finRange 10).map (fun k => .gfcPulse (tenPulses k).on (tenPulses k).off)) ++ [.reset]
    ∧ mid.cfg.gfcStartAssert.toNat < (8000000 : Dur).toNat ∧ ∀ k, (tenPulses k).on.toNat ≤ mid.cfg.gfcStartAssert.toNat := by
  refine ⟨rfl, ?_, ?_⟩ <;> decide

/-! ### A32: both sides of each band, counters 31 and 32 -/

theorem witness_A32RepeatBandIsIgnored : mid.cfg.a32IgnoreDeassert.toNat < (10000001 : Dur).toNat := by decide

theorem witness_A32StartBandClearsOrDrops : (10000000 : Dur).toNat ≤ mid.cfg.a32IgnoreDeassert.toNat
    ∧ mid.cfg.a32StartDeassert.toNat < (3000001 : Dur).toNat ∧ (3000001 : Dur).toNat ≤ mid.cfg.a32IgnoreDeassert.toNat
    ∧ mid.cfg.a32StartAssert.toNat < (3000001 : Dur).toNat ∧ (3000000 : Dur).toNat ≤ mid.cfg.a32StartAssert.toNat := by decide

theorem witness_A32DataPulseAppendsItsBitOrIsClamped : (3000000 : Dur).toNat ≤ mid.cfg.a32IgnoreDeassert.toNat
    ∧ (3000000 : Dur).toNat ≤ mid.cfg.a32StartDeassert.toNat
    ∧ ({ mid with a32 := { acc := 0x56781234, cnt := 31 } } : State).a32.cnt.toNat < 32
    ∧ ({ mid with a32 := { acc := 0x56781234, cnt := 32 } } : State).a32.cnt.toNat = 32 := by decide

theorem a32RoundTrip_mid : A32RoundTripConfig mid.cfg := by constructor <;> decide

/-- The whole frame of L1-2, presented to the decoder in mid-frame. -/
theorem witness_A32MarshalledFrameDecodesToItself :
    ∃ (s u : State) (ps : List PulsePair), A32RoundTripConfig s.cfg ∧ exec (.a32Marshal 0x56781234) s = .next u ∧ u.txPairs = s.txPairs ++ ps
      ∧ s.inputs = requestsAt 7 (ps.map (fun p => .a32Pulse p.on p.off)) ++ [.reset] :=
  ⟨midWith (requestsAt 7 ((a32Frame mid.cfg 0x56781234).map (fun p => .a32Pulse p.on p.off)) ++ [.reset]), _, a32Frame mid.cfg 0x56781234,
    a32RoundTrip_mid, rfl, by decide, rfl⟩

/-! ### P9: both sides of the start threshold, counters 0, 7 and 8, both parities -/

theorem witness_P9StartMarkerClears : mid.cfg.p9StartDeassert.toNat < (1600001 : Dur).toNat := by decide

theorem witness_P9DataPulseAppendsItsBitOrEndsTheFrame : (1600000 : Dur).toNat ≤ mid.cfg.p9StartDeassert.toNat
    ∧ ({ mid with p9 := { acc := 0x3, cnt := 7, par := false } } : State).p9.cnt.toNat < 8
    ∧ ({ mid with p9 := { acc := 0x3, cnt := 8, par := false } } : State).p9.cnt.toNat = 8 := by decide

/-- Data 0x03 with the parity pulse 1 (three ones), and with it 0 (two ones). -/
def ninePulses (parity : Bool) (k : Fin 9) : PulsePair :=
  { on := 500000, off := if k.val < 2 ∨ (k.val = 8 ∧ parity = true) then 1000000 else 500000 }

theorem witness_P9FrameIsDeliveredExactlyWhenItsParityIsOdd (parity : Bool) :
    mid.cfg.p9StartDeassert.toNat < (2000000 : Dur).toNat ∧ (∀ k, (ninePulses parity k).off.toNat ≤ mid.cfg.p9StartDeassert.toNat)
    ∧ (midWith (requestsAt 7 (.p9Pulse 500000 2000000 :: (List.finRange 9).map (fun k => .p9Pulse (ninePulses parity k).on (ninePulses parity k).off)) ++ [])).inputs
      = requestsAt 7 (.p9Pulse 500000 2000000 :: (List.finRange 9).map (fun k => .p9Pulse (ninePulses parity k).on (ninePulses parity k).off)) ++ []
    ∧ (List.finRange 9).countP (fun k => decide (mid.cfg.p9OneDeassert.toNat < (ninePulses parity k).off.toNat)) = if parity then 3 else 2 := by
  cases parity <;> exact ⟨by decide, by decide, rfl, by decide⟩

theorem witness_P9MarshalEmitsTenPairsOrBadOperand : (255 : Word).toNat < 256 ∧ 256 ≤ (256 : Word).toNat := by decide

theorem p9RoundTrip_mid : P9RoundTripConfig mid.cfg := by constructor <;> decide

theorem witness_P9MarshalledFrameDecodesToItself :
    ∃ (s u : State) (ps : List PulsePair), P9RoundTripConfig s.cfg ∧ (0xA5 : Word).toNat < 256 ∧ exec (.p9Marshal 0xA5) s = .next u
      ∧ u.txPairs = s.txPairs ++ ps ∧ s.inputs = requestsAt 7 (ps.map (fun p => .p9Pulse p.on p.off)) ++ [.reset] :=
  ⟨midWith (requestsAt 7 ((p9Frame mid.cfg 0xA5).map (fun p => .p9Pulse p.on p.off)) ++ [.reset]), _, p9Frame mid.cfg 0xA5,
    p9RoundTrip_mid, by decide, rfl, by decide, rfl⟩

/-! ### PPM: both sides of the marker threshold, unsynced and at capacity, live and stale, first and last channel -/

theorem witness_PpmMarkerRecordsTheTime : mid.cfg.ppmSyncAssert.toNat < (6000001 : Dur).toNat := by decide

theorem witness_PpmPulseIsDroppedUnsyncedOrAtCapacity : (6000000 : Dur).toNat ≤ State.reset.cfg.ppmSyncAssert.toNat
    ∧ State.reset.ppm.synced = false ∧ twoChannels.cfg.ppmNch.toNat ≤ twoChannels.ppm.idx.toNat := by decide

theorem witness_PpmChannelPulseStoresTheRoundedSum : (6000000 : Dur).toNat ≤ mid.cfg.ppmSyncAssert.toNat ∧ mid.ppm.synced = true
    ∧ mid.ppm.idx.toNat < mid.cfg.ppmNch.toNat ∧ mid.cfg.ppmNch.toNat ≤ 16 ∧ 1 ≤ mid.cfg.ppmTick.toNat := by decide

/-- Stale: unsynced; one past the timeout; a marker in the future. Not stale: exactly the timeout. -/
theorem witness_PpmStaleAnswersTheStaleness : StaleAt State.reset.cfg State.reset.ppm State.reset.now
    ∧ StaleAt mid.cfg mid.ppm 5600000001 ∧ StaleAt mid.cfg mid.ppm 4999999999 ∧ ¬ StaleAt mid.cfg mid.ppm 5600000000 := by
  unfold StaleAt
  decide

theorem witness_PpmChAnswersLiveSafeOrBadChannel : (15 : BitVec 8).toNat < mid.cfg.ppmNch.toNat ∧ mid.cfg.ppmNch.toNat ≤ 16
    ∧ mid.cfg.ppmNch.toNat ≤ (16 : BitVec 8).toNat := by decide

theorem witness_PpmChsAnswersAllLiveOrAllSafe : mid.cfg.ppmNch.toNat ≤ 16 ∧ twoChannels.cfg.ppmNch.toNat ≤ 16 := by decide

/-- Sixteen channel pulses after a marker, the last channel read. -/
def sixteenPulses : List PulsePair := List.replicate 15 { on := 1000000, off := 500000 } ++ [{ on := 6000000, off := 0 }]

/-- The requests of the second clause, and the hypotheses with the read at the timeout and one past it; and a state of the first clause, before any marker. -/
theorem witness_PpmChannelReadFallsBackAfterTheTimeout (late : Bool) :
    (midWith (.request (encode (.ppmPulse 7000000 0)) 7 :: (requestsAt 8 (sixteenPulses.map (fun d => .ppmPulse d.on d.off))
      ++ [.request (encode (.ppmCh 15)) (if late then 600000008 else 600000007)]))).Inv
    ∧ mid.cfg.ppmSyncAssert.toNat < (7000000 : Dur).toNat ∧ (∀ d ∈ sixteenPulses, d.on.toNat ≤ mid.cfg.ppmSyncAssert.toNat)
    ∧ sixteenPulses.length ≤ mid.cfg.ppmNch.toNat ∧ sixteenPulses[15]? = some { on := 6000000, off := 0 }
    ∧ (7 : Time).toNat ≤ (600000007 : Time).toNat ∧ (600000007 : Time).toNat - (7 : Time).toNat ≤ mid.cfg.ppmTimeout.toNat
    ∧ mid.cfg.ppmTimeout.toNat < (600000008 : Time).toNat - (7 : Time).toNat ∧ State.reset.ppm.synced = false :=
  ⟨mid_inv _, by decide⟩

theorem witness_LatestMarkerIsNeverInTheFuture : ∃ t, mid.ppm.last.toNat ≤ mid.now.toNat
    ∧ NowMono (midWith [.request (encode (.ppmPulse 7000000 0)) 5100000000, .reset, .request 0x0022#80 5200000000]).inputs
    ∧ (∀ n ∈ requestTimes (midWith [.request (encode (.ppmPulse 7000000 0)) 5100000000, .reset, .request 0x0022#80 5200000000]).inputs,
      mid.now.toNat ≤ n.toNat)
    ∧ step (midWith [.request (encode (.ppmPulse 7000000 0)) 5100000000, .reset, .request 0x0022#80 5200000000]) = .next t :=
  ⟨_, by decide, by simp [NowMono, requestTimes, midWith], by simp [requestTimes, midWith, mid], rfl⟩

/-! ### Dispatcher, configuration, boot, assembler -/

theorem witness_DispRegAppendsOrReportsFull : ({ mid with disp := { len := 7, list := mid.disp.list } } : State).disp.len.toNat < 8
    ∧ ({ mid with disp := { len := 8, list := mid.disp.list } } : State).disp.len.toNat = 8 := by decide

theorem witness_TwoRegisteredDecodersAreEachSteppedOnce : ({ mid with disp := { len := 0, list := mid.disp.list } } : State).disp.len = 0 := by decide

/-- The first and the last number of each reserved range; their neighbours are not reserved. -/
theorem witness_ReservedRegisterNumbersAnswerBadReg :
    (∀ n ∈ ([0x0C, 0x0F, 0x16, 0x17, 0x1E, 0x1F, 0x30, 0xFF] : List (BitVec 8)), ReservedCfgNumber n)
    ∧ ∀ n ∈ ([0x00, 0x0B, 0x10, 0x15, 0x18, 0x1D, 0x20, 0x2F] : List (BitVec 8)), ¬ ReservedCfgNumber n := by
  unfold ReservedCfgNumber
  decide

theorem witness_OnlyIllegalValuesAnswerBadValue : ¬ ReservedCfgNumber 0x0A ∧ ¬ ReservedCfgNumber 0x0B ∧ IllegalCfgValue 0x0A 0
    ∧ IllegalCfgValue 0x0B 0 ∧ IllegalCfgValue 0x0B 17 ∧ ¬ IllegalCfgValue 0x0A 1 ∧ ¬ IllegalCfgValue 0x0B 1 ∧ ¬ IllegalCfgValue 0x0B 16 := by
  unfold ReservedCfgNumber IllegalCfgValue
  decide

theorem witness_CfgWriteIsReadBackAndWritesNothingElse : ¬ ReservedCfgNumber 0x2F ∧ ¬ IllegalCfgValue 0x2F 0xFFFFFFFF ∧ ¬ ReservedCfgNumber 0x2E := by
  unfold ReservedCfgNumber IllegalCfgValue
  decide

theorem witness_CfgReadAnswersTheNumberedRegister : ((0x0B, mid.cfg.ppmNch) : BitVec 8 × Word) ∈ cfgRegisterMap mid.cfg
    ∧ ((0x2F, mid.cfg.ppmSafe[15]) : BitVec 8 × Word) ∈ cfgRegisterMap mid.cfg := by decide

theorem witness_BootEstablishesConfigurationAndMembers :
    ({ mid with disp := DispRegs.reset } : State).cfg = CfgRegs.reset ∧ ({ mid with disp := DispRegs.reset } : State).disp = DispRegs.reset
    ∧ 1 ≤ ({ CfgRegs.reset with ppmNch := 4 } : CfgRegs).ppmTick.toNat ∧ 1 ≤ ({ CfgRegs.reset with ppmNch := 4 } : CfgRegs).ppmNch.toNat
    ∧ ({ CfgRegs.reset with ppmNch := 4 } : CfgRegs).ppmNch.toNat ≤ 16 ∧ (List.replicate 8 DecoderId.a32).length ≤ 8 := by decide

theorem witness_AssembledRequestsInheritTheirTime :
    asmLine? "@10ms PPM.CHS".toList = some { now := some 10000000, ops := [.ppmChs] }
    ∧ assembleFrom ((some 10000000 : Option Time).getD 0) ["PPM.CH 3".toList] = some [.request 0x0320#80 10000000] := by decide

end Sys2Proof.Machine.Tests
end

section
/-! The scope family (00_scope.md): the bound on the work of one operation. -/

namespace Sys2Proof.Machine

/-- Settles O25: an operation puts out events, then transmitted pairs, then its response (`exec_answers`), so each stream's share of
what comes before the response is one of these two lists, whose lengths are bounded there. -/
theorem workOfOneOperationIsBounded : Obligations.WorkOfOneOperationIsBounded := by
  intro i s
  obtain ⟨t, es, ps, r, hexec, hout, -, hevents, hpairs, hdata, -⟩ := exec_answers i s
  have hsentPairs : (es.map Output.event ++ ps.map Output.tx).filterMap Output.tx? = ps := by
    rw [List.filterMap_append, filterMap_tx_map_event, filterMap_tx_map_tx, List.nil_append]
  have hsentEvents : (es.map Output.event ++ ps.map Output.tx).filterMap Output.event? = es := by
    rw [List.filterMap_append, filterMap_event_map_event, filterMap_event_map_tx, List.append_nil]
  exact ⟨t, es.map Output.event ++ ps.map Output.tx, r, hexec, hout, by rwa [hsentPairs], by rwa [hsentEvents], hdata⟩

end Sys2Proof.Machine
end

section
/-! The state family (10_state.md), its facts: what a step can do, what an operation can write, and what it keeps. -/

namespace Sys2Proof.Machine

/-! ## What a step can do -/

theorem step_request (s : State) (word : ReqWord) (now : Time) (rest : List Input) (i : Instr)
    (hin : s.inputs = .request word now :: rest) (hdec : decode word = .ok i) : step s = exec i (s.accept now rest) := by
  simp only [step, hin, hdec]

theorem step_reset (s : State) (rest : List Input) (hin : s.inputs = .reset :: rest) :
    step s = .next ({ s with inputs := rest }).assertReset := by
  simp only [step, hin]

/-- Everything a step can do: nothing, reset, answer a reserved request, run an operation (R4, R90, R261, R270). -/
theorem step_cases {s t : State} (h : step s = .next t) :
    (s.inputs = [] ∧ t = s)
    ∨ (∃ rest, s.inputs = .reset :: rest ∧ t = ({ s with inputs := rest }).assertReset)
    ∨ (∃ word now rest, s.inputs = .request word now :: rest ∧ t = (s.accept now rest).illegalRequest)
    ∨ (∃ word now rest i, s.inputs = .request word now :: rest ∧ exec i (s.accept now rest) = .next t) := by
  unfold step at h
  split at h
  case h_1 hin => exact .inl ⟨hin, (Host.Outcome.next.inj h).symm⟩
  case h_2 rest hin => exact .inr (.inl ⟨rest, hin, (Host.Outcome.next.inj h).symm⟩)
  case h_3 word now rest hin =>
    split at h
    case h_1 i _ => exact .inr (.inr (.inr ⟨word, now, rest, i, hin, h⟩))
    case h_2 => exact .inr (.inr (.inl ⟨word, now, rest, hin, (Host.Outcome.next.inj h).symm⟩))

/-! ## What an operation leaves of the ports -/

/-- An operation keeps `now` and the inputs, and only appends to what has been put out. -/
theorem exec_ports {i : Instr} {s t : State} (h : exec i s = .next t) : SamePorts s t ∧ ∃ os, t.out = s.out ++ os := by
  obtain ⟨u, es, ps, r, hu, hout, hports, -⟩ := exec_answers i s
  obtain rfl : u = t := Host.Outcome.next.inj (hu.symm.trans h)
  exact ⟨hports, _, hout⟩

/-! ## Which registers an operation can write -/

/-- The decoders an operation steps, in order: the members for PULSE, the one decoder for a decoder's own operation. -/
def steppedDecoders (i : Instr) (d : DispRegs) : List DecoderId :=
  match i with
  | .pulse _ _ => d.members
  | .gfcPulse _ _ => [.gfc]
  | .a32Pulse _ _ => [.a32]
  | .p9Pulse _ _ => [.p9]
  | .ppmPulse _ _ => [.ppm]
  | _ => []

/-- A decoder is stepped by its own operation and by a PULSE whose list it is in, and by nothing else (R211). -/
theorem of_mem_steppedDecoders {i : Instr} {d : DispRegs} {id : DecoderId} (h : id ∈ steppedDecoders i d) :
    ∃ on off, i = pulseOpOf id on off ∨ (i = .pulse on off ∧ id ∈ d.members) := by
  cases i
  case pulse on off => exact ⟨on, off, .inr ⟨rfl, h⟩⟩
  case gfcPulse on off | a32Pulse on off | p9Pulse on off | ppmPulse on off =>
    obtain rfl := List.mem_singleton.mp h
    exact ⟨on, off, .inl rfl⟩
  all_goals exact absurd h List.not_mem_nil

/-- Everything an operation can write: nothing, the registers of the decoders it steps, one entry of the dispatcher list, one
configuration register with a value legal for it (R29, R44, R215, R231). -/
theorem exec_registers {i : Instr} {s t : State} (h : exec i s = .next t) :
    RegistersKept s t
    ∨ (∃ on off, RegistersKept (s.stepAll (steppedDecoders i s.disp) on off) t)
    ∨ (∃ id list, i = .dispReg id ∧ s.disp.len.toNat < 8
      ∧ RegistersKept { s with disp := { len := s.disp.len + 1, list := list } } t)
    ∨ (∃ n v r, i = .cfgWr n v ∧ r.legal v = true ∧ RegistersKept { s with cfg := s.cfg.write r v } t) := by
  have answered {c : Status} {ds : List Word} (hu : exec i s = .next (s.respond c ds)) : RegistersKept s t := by
    cases hu.symm.trans h
    exact ⟨rfl, rfl, rfl, rfl, rfl, rfl⟩
  cases i
  case pulse on off | gfcPulse on off | a32Pulse on off | p9Pulse on off | ppmPulse on off =>
    cases h
    exact .inr (.inl ⟨on, off, rfl, rfl, rfl, rfl, rfl, rfl⟩)
  case dispReg id =>
    by_cases hroom : s.disp.len.toNat < 8
    · cases (exec_dispReg_room s id hroom).symm.trans h
      exact .inr (.inr (.inl ⟨id, _, rfl, hroom, rfl, rfl, rfl, rfl, rfl, rfl⟩))
    · exact .inl (answered (exec_dispReg_full s id hroom))
  case a32Marshal w =>
    cases h
    exact .inl ⟨rfl, rfl, rfl, rfl, rfl, rfl⟩
  case a32Unmarshal dst w =>
    cases dst
    · exact .inl (answered (exec_a32Unmarshal_absent s w))
    · exact .inl (answered (exec_a32Unmarshal_present s w))
  case p9Marshal w =>
    cases hw : dataByte? w with
    | none => exact .inl (answered (exec_p9Marshal_wide s w hw))
    | some d =>
      cases (exec_p9Marshal_byte s w d hw).symm.trans h
      exact .inl ⟨rfl, rfl, rfl, rfl, rfl, rfl⟩
  case ppmCh n =>
    cases hn : channel? s.cfg n.toNat with
    | none => exact .inl (answered (exec_ppmCh_none s n hn))
    | some c => exact .inl (answered (exec_ppmCh_channel s n c hn))
  case ppmChs => exact .inl (answered (exec_ppmChs s))
  case ppmStale => exact .inl (answered (exec_ppmStale s))
  case cfgWr n v =>
    cases hn : CfgReg.ofNumber n with
    | none => exact .inl (answered (exec_cfgWr_reserved s n v hn))
    | some r =>
      cases hl : r.legal v with
      | false => exact .inl (answered (exec_cfgWr_illegal s n v r hn hl))
      | true =>
        cases (exec_cfgWr_legal s n v r hn hl).symm.trans h
        exact .inr (.inr (.inr ⟨n, v, r, rfl, hl, rfl, rfl, rfl, rfl, rfl, rfl⟩))
  case cfgRd n =>
    cases hn : CfgReg.ofNumber n with
    | none => exact .inl (answered (exec_cfgRd_reserved s n hn))
    | some r => exact .inl (answered (exec_cfgRd_register s n r hn))

/-! ## What stepping a list of decoders keeps -/

/-- What every decoder step keeps, stepping a list of decoders keeps. -/
theorem stepAll_induction {P : State → Prop} {on off : Dur} (hstep : ∀ u id, P u → P (u.stepDecoder id on off))
    {s : State} (ids : List DecoderId) (h : P s) : P (s.stepAll ids on off) := by
  unfold State.stepAll
  exact List.foldlRecOn ids _ h (fun u hu id _ => hstep u id hu)

@[simp] theorem stepDecoder_cfg (s : State) (id : DecoderId) (on off : Dur) : (s.stepDecoder id on off).cfg = s.cfg := by
  cases id <;> rfl

@[simp] theorem stepDecoder_now (s : State) (id : DecoderId) (on off : Dur) : (s.stepDecoder id on off).now = s.now := by
  cases id <;> rfl

/-- A decoder step leaves the PPM registers, or it is the PPM decoder's step. -/
theorem stepDecoder_ppm (s : State) (id : DecoderId) (on off : Dur) :
    (s.stepDecoder id on off).ppm = s.ppm ∨ (s.stepDecoder id on off).ppm = ppmStep s.cfg s.now on off s.ppm := by
  cases id
  case ppm => exact .inr rfl
  all_goals exact .inl rfl

/-- What every PPM step keeps of the PPM registers, every operation keeps: nothing else writes them (R29). -/
theorem exec_ppm_induction {P : PpmRegs → Prop} {i : Instr} {s t : State} (h : exec i s = .next t)
    (hstep : ∀ r on off, P r → P (ppmStep s.cfg s.now on off r)) (hs : P s.ppm) : P t.ppm := by
  rcases exec_registers h with ⟨-, -, -, hppm, -⟩ | ⟨on, off, -, -, -, hppm, -⟩ | ⟨_, _, -, -, -, -, -, hppm, -⟩ |
    ⟨_, _, _, -, -, -, -, -, hppm, -⟩ <;> rw [hppm]
  case inr.inl =>
    have hdecoder (u : State) (id : DecoderId) (hu : u.cfg = s.cfg ∧ u.now = s.now ∧ P u.ppm) :
        (u.stepDecoder id on off).cfg = s.cfg ∧ (u.stepDecoder id on off).now = s.now ∧ P (u.stepDecoder id on off).ppm := by
      obtain ⟨hcfg, hnow, hp⟩ := hu
      refine ⟨(stepDecoder_cfg ..).trans hcfg, (stepDecoder_now ..).trans hnow, ?_⟩
      rcases stepDecoder_ppm u id on off with e | e <;> rw [e]
      · exact hp
      · rw [hcfg, hnow]
        exact hstep _ _ _ hp
    obtain ⟨-, -, hp⟩ := stepAll_induction (P := fun u => u.cfg = s.cfg ∧ u.now = s.now ∧ P u.ppm) hdecoder
      (steppedDecoders i s.disp) ⟨rfl, rfl, hs⟩
    exact hp
  all_goals exact hs

/-- A PPM step leaves the latest marker or makes it the operation's own `now` (R181). -/
theorem ppmStep_last (c : CfgRegs) (now : Time) (on off : Dur) (r : PpmRegs) :
    (ppmStep c now on off r).last = r.last ∨ (ppmStep c now on off r).last = now := by
  rcases ppmStep_cases c now on off r with ⟨_, e⟩ | ⟨_, _, e⟩ | ⟨_, _, _, _, _, e⟩ <;> rw [e]
  · exact .inr rfl
  · exact .inl rfl
  · exact .inl rfl

end Sys2Proof.Machine
end

section
/-! The state family (10_state.md), the invariants (R28, R232): at reset, and kept by every step. -/

namespace Sys2Proof.Machine

/-! ## The invariants -/

/-- The invariants are about registers only. -/
theorem State.Inv.of_registersKept {s t : State} (h : s.Inv) (hk : RegistersKept s t) : t.Inv := by
  obtain ⟨hgfc, ha32, hp9, hppm, hdisp, hcfg⟩ := hk
  exact h.congr hgfc ha32 hp9 (congrArg PpmRegs.idx hppm) (congrArg DispRegs.len hdisp) hcfg

/-- Settles O14: each counter is 0, each accumulator is 0 in every bit, and `PPM_TICK` and `PPM_NCH` are 1000 and 16. -/
theorem resetStateMeetsTheInvariants : Obligations.ResetStateMeetsTheInvariants where
  gfcCnt := by decide
  a32Cnt := by decide
  p9Cnt := by decide
  ppmIdx := by decide
  dispLen := by decide
  gfcAcc _ _ := BitVec.getLsbD_zero
  a32Acc _ _ := BitVec.getLsbD_zero
  p9Acc _ _ := BitVec.getLsbD_zero
  p9Par := by decide
  tick := by decide
  nchPos := by decide
  nchMax := by decide

/-- The reset input establishes the invariants, whatever the state was. -/
theorem assertReset_inv (s : State) : s.assertReset.Inv :=
  State.Inv.of_registersKept resetStateMeetsTheInvariants ⟨rfl, rfl, rfl, rfl, rfl, rfl⟩

theorem stepDecoder_inv {s : State} (h : s.Inv) (id : DecoderId) (on off : Dur) : (s.stepDecoder id on off).Inv := by
  cases id
  case gfc =>
    obtain ⟨hcnt, hacc⟩ := gfcStep_inv s.cfg on off s.gfc h.gfcCnt h.gfcAcc
    exact { h with gfcCnt := hcnt, gfcAcc := hacc }
  case a32 =>
    obtain ⟨hcnt, hacc⟩ := a32Step_inv s.cfg on off s.a32 h.a32Cnt h.a32Acc
    exact { h with a32Cnt := hcnt, a32Acc := hacc }
  case p9 =>
    obtain ⟨hcnt, hacc, hpar⟩ := p9Step_inv s.cfg off s.p9 h.p9Cnt h.p9Acc h.p9Par
    exact { h with p9Cnt := hcnt, p9Acc := hacc, p9Par := hpar }
  case ppm => exact { h with ppmIdx := ppmStep_idx_le s.cfg s.now on off s.ppm h.ppmIdx }

/-- A write of a legal value leaves `PPM_TICK` and `PPM_NCH` legal (R232). -/
theorem write_keeps_legal (c : CfgRegs) {r r' : CfgReg} {v : Word} (hv : r.legal v = true) (hc : r'.legal (c.read r') = true) :
    r'.legal ((c.write r v).read r') = true := by
  rw [read_write]
  split
  · next e => rwa [e]
  · exact hc

theorem cfgWrite_inv {s : State} (h : s.Inv) {r : CfgReg} {v : Word} (hv : r.legal v = true) :
    ({ s with cfg := s.cfg.write r v } : State).Inv := by
  have htick := write_keeps_legal s.cfg (r' := .ppmTick) hv (decide_eq_true h.tick)
  have hnch := write_keeps_legal s.cfg (r' := .ppmNch) hv (decide_eq_true ⟨h.nchPos, h.nchMax⟩)
  exact { h with tick := of_decide_eq_true htick, nchPos := (of_decide_eq_true hnch).1, nchMax := (of_decide_eq_true hnch).2 }

/-- Every operation keeps the invariants (R28). -/
theorem exec_inv {i : Instr} {s t : State} (h : exec i s = .next t) (hs : s.Inv) : t.Inv := by
  rcases exec_registers h with hk | ⟨on, off, hk⟩ | ⟨id, list, -, hroom, hk⟩ | ⟨n, v, r, -, hv, hk⟩
  · exact hs.of_registersKept hk
  · exact (stepAll_induction (P := State.Inv) (fun _ id hu => stepDecoder_inv hu id on off) _ hs).of_registersKept hk
  · have hlen : (s.disp.len + 1).toNat ≤ 8 := by bv_omega
    have hinv : ({ s with disp := { len := s.disp.len + 1, list := list } } : State).Inv := { hs with dispLen := hlen }
    exact hinv.of_registersKept hk
  · exact (cfgWrite_inv hs hv).of_registersKept hk

/-- Settles O15: of the four things a step can do, only an operation writes registers in a way that needs an argument, and that is
`exec_inv`; the reset input writes the registers of the state after reset, from whatever state. -/
theorem stepKeepsTheInvariants : Obligations.StepKeepsTheInvariants := by
  refine ⟨fun s t hs h => ?_, fun s t rest hin h => ?_⟩
  · rcases step_cases h with ⟨-, rfl⟩ | ⟨rest, -, rfl⟩ | ⟨_, now, rest, -, rfl⟩ | ⟨_, now, rest, i, -, hexec⟩
    · exact hs
    · exact assertReset_inv _
    · exact hs.of_registersKept ⟨rfl, rfl, rfl, rfl, rfl, rfl⟩
    · exact exec_inv hexec (hs.of_registersKept ⟨rfl, rfl, rfl, rfl, rfl, rfl⟩)
  · cases (step_reset s rest hin).symm.trans h
    exact assertReset_inv _

end Sys2Proof.Machine
end

section
/-! The state family (10_state.md): the step, who writes and reads which register, what leaves the block, the configuration map. -/

namespace Sys2Proof.Machine

/-! ## The step -/

/-- Settles O7: taking the request is exactly the update of `now` and the inputs that the statement writes out. -/
theorem stepRunsTheDecodedOperation : Obligations.StepRunsTheDecodedOperation :=
  fun s w now rest i hin hdec => step_request s w now rest i hin hdec

/-- A table word that has an operation is a request word that the decoder reads as that operation. -/
theorem decode_of_decodeTableWord {nbits w : Nat} {i : Instr} (h : decodeTableWord nbits w = some i) :
    decode (BitVec.ofNat 80 (w % 2 ^ nbits)) = .ok i := by
  unfold decodeTableWord at h
  split at h
  · generalize decode (BitVec.ofNat 80 (w % 2 ^ nbits)) = d at h ⊢
    cases d with
    | ok j => exact congrArg Except.ok (Option.some.inj h)
    | error e => cases h
  · cases h

/-- Settles O8: the word is presented at the sample the state holds and before its inputs, so taking it gives the state back. -/
theorem presentedWordIsRunNext : Obligations.PresentedWordIsRunNext :=
  fun s nbits w i h => step_request (s.withFetchWord nbits w) _ s.now s.inputs i rfl (decode_of_decodeTableWord h)

/-! ## Frames -/

/-- Settles O20: `exec_registers` names the four kinds of write. In the case of stepped decoders, a decoder whose registers changed was
stepped (`stepAll_frame`), so the operation was its own or a PULSE with it among the members. -/
theorem operationsWriteOnlyTheirOwnRegisters : Obligations.OperationsWriteOnlyTheirOwnRegisters := by
  intro i s
  obtain ⟨t, -, -, -, hexec, -, hports, -⟩ := exec_answers i s
  refine ⟨t, hexec, hports, ?_⟩
  rcases exec_registers hexec with ⟨hgfc, ha32, hp9, hppm, hdisp, hcfg⟩ | ⟨on, off, hgfc, ha32, hp9, hppm, hdisp, hcfg⟩ |
    ⟨id, _, rfl, -, hgfc, ha32, hp9, hppm, -, hcfg⟩ | ⟨n, v, _, rfl, -, hgfc, ha32, hp9, hppm, hdisp, -⟩
  · exact ⟨absurd hgfc, absurd ha32, absurd hp9, absurd hppm, absurd hdisp, absurd hcfg⟩
  · obtain ⟨kdisp, kcfg, -, -, kgfc, ka32, kp9, kppm, -⟩ := stepAll_frame (steppedDecoders i s.disp) on off s
    have stepped {id : DecoderId} {p : Prop} (h : id ∉ steppedDecoders i s.disp → p) (hp : ¬ p) :
        ∃ on off, i = pulseOpOf id on off ∨ (i = .pulse on off ∧ id ∈ s.disp.members) :=
      of_mem_steppedDecoders (not_imp_comm.mp h hp)
    exact ⟨stepped fun h => hgfc.trans (kgfc h), stepped fun h => ha32.trans (ka32 h), stepped fun h => hp9.trans (kp9 h),
      stepped fun h => hppm.trans (kppm h), absurd (hdisp.trans kdisp), absurd (hcfg.trans kcfg)⟩
  · exact ⟨absurd hgfc, absurd ha32, absurd hp9, absurd hppm, fun _ => ⟨id, rfl⟩, absurd hcfg⟩
  · exact ⟨absurd hgfc, absurd ha32, absurd hp9, absurd hppm, absurd hdisp, fun _ => ⟨n, v, rfl⟩⟩

/-- Settles O21: what a decoder's own operation writes and puts out is computed by its step from the configuration, the decoder's registers
and, for PPM, `now`. -/
theorem decoderStepReadsOnlyItsOwnRegisters : Obligations.DecoderStepReadsOnlyItsOwnRegisters := by
  intro s s' on off hcfg
  refine ⟨fun hgfc => ?_, fun ha32 => ?_, fun hp9 => ?_, fun hppm hnow => ?_⟩
  · refine ⟨_, _, (gfcStep s.cfg on off s.gfc).2.toList.map .event ++ [okResponse],
      exec_gfcPulse s on off, exec_gfcPulse s' on off, ?_⟩
    simp [Emits, okResponse, hcfg, hgfc]
  · refine ⟨_, _, (a32Step s.cfg on off s.a32).2.toList.map .event ++ [okResponse],
      exec_a32Pulse s on off, exec_a32Pulse s' on off, ?_⟩
    simp [Emits, okResponse, hcfg, ha32]
  · refine ⟨_, _, (p9Step s.cfg off s.p9).2.toList.map .event ++ [okResponse],
      exec_p9Pulse s on off, exec_p9Pulse s' on off, ?_⟩
    simp [Emits, okResponse, hcfg, hp9]
  · refine ⟨_, _, [okResponse], exec_ppmPulse s on off, exec_ppmPulse s' on off, ?_⟩
    simp [Emits, okResponse, hcfg, hppm, hnow]

/-! ## What leaves the block -/

/-- Settles O16: before its response an operation puts out events and transmitted pairs only, and an error response carries no data
(`exec_answers`). -/
theorem everyOperationEndsWithOneResponse : Obligations.EveryOperationEndsWithOneResponse := by
  intro i s
  obtain ⟨t, es, ps, r, hexec, hout, -, -, -, -, hfail, -⟩ := exec_answers i s
  refine ⟨t, es.map Output.event ++ ps.map Output.tx, r, hexec, hout, ?_, fun hne => ?_⟩
  · rintro o ho r' rfl
    rcases List.mem_append.mp ho with hmem | hmem
    · obtain ⟨_, -, he⟩ := List.mem_map.mp hmem
      cases he
    · obtain ⟨_, -, hp⟩ := List.mem_map.mp hmem
      cases hp
  · obtain ⟨-, -, -, hdata⟩ := hfail hne
    exact hdata

/-- Settles O24: an idle step and the reset input put out nothing, a reserved request its response, an operation what it appends. -/
theorem outputsAreNeverWithdrawn : Obligations.OutputsAreNeverWithdrawn := by
  intro s t h
  rcases step_cases h with ⟨-, rfl⟩ | ⟨_, -, rfl⟩ | ⟨_, _, _, -, rfl⟩ | ⟨_, _, _, _, -, hexec⟩
  · exact ⟨[], (List.append_nil _).symm⟩
  · exact ⟨[], (List.append_nil _).symm⟩
  · exact ⟨_, rfl⟩
  · exact (exec_ports hexec).2

/-! ## The marker's flag and time -/

/-- Settles O23: an operation writes the PPM registers by PPM steps only, and none of them clears the flag (`ppmStep_synced`); an idle step and
a reserved request write no register. -/
theorem onlyResetClearsSynced : Obligations.OnlyResetClearsSynced := by
  intro s t h hset hclear
  rcases step_cases h with ⟨-, rfl⟩ | ⟨rest, hin, -⟩ | ⟨_, _, _, -, rfl⟩ | ⟨_, now, rest, _, -, hexec⟩
  · exact absurd hset (by simp [hclear])
  · exact ⟨rest, hin⟩
  · exact absurd hset (by simpa using hclear)
  · have hkept : t.ppm.synced = true :=
      exec_ppm_induction (P := fun r => r.synced = true) hexec (fun r on off hr => ppmStep_synced _ _ on off r hr) hset
    exact absurd hkept (by simp [hclear])

/-- Samples that never decrease are, once the first is taken, all at or after it, and never decrease. -/
theorem nowMono_cons_request {word : ReqWord} {now : Time} {rest : List Input} (h : NowMono (.request word now :: rest)) :
    (∀ n ∈ requestTimes rest, now.toNat ≤ n.toNat) ∧ NowMono rest :=
  List.pairwise_cons.mp h

/-- An operation keeps `ppm_last` at most `now`: a marker makes them equal. -/
theorem exec_last_le_now {i : Instr} {s t : State} (h : exec i s = .next t) (hs : s.ppm.last.toNat ≤ s.now.toNat) :
    t.ppm.last.toNat ≤ t.now.toNat := by
  obtain ⟨⟨hnow, -⟩, -⟩ := exec_ports h
  rw [hnow]
  refine exec_ppm_induction (P := fun r => r.last.toNat ≤ s.now.toNat) h (fun r on off hr => ?_) hs
  rcases ppmStep_last s.cfg s.now on off r with e | e <;> rw [e]
  exact hr

/-- Settles O50: the request taken has the earliest sample still presented, which is at or after the previous one and so at or after the latest
marker; the operation keeps that (`exec_last_le_now`). The reset input makes `ppm_last` 0. -/
theorem latestMarkerIsNeverInTheFuture : Obligations.LatestMarkerIsNeverInTheFuture := by
  intro s t hlast hmono hge h
  rcases step_cases h with ⟨-, rfl⟩ | ⟨rest, hin, rfl⟩ | ⟨word, now, rest, hin, rfl⟩ | ⟨word, now, rest, i, hin, hexec⟩
  · exact ⟨hlast, hmono, hge⟩
  · rw [hin] at hmono hge
    exact ⟨Nat.zero_le _, hmono, hge⟩
  all_goals
    rw [hin] at hmono hge
    obtain ⟨hrest, hmono'⟩ := nowMono_cons_request hmono
    have hle : s.ppm.last.toNat ≤ now.toNat := hlast.trans (hge now List.mem_cons_self)
  · exact ⟨hle, hmono', hrest⟩
  · obtain ⟨⟨hnow, hinputs⟩, -⟩ := exec_ports hexec
    refine ⟨exec_last_le_now hexec hle, ?_⟩
    rw [hnow, hinputs]
    exact ⟨hmono', hrest⟩

/-! ## The configuration map -/

/-- A number that is not reserved names a register. -/
theorem ofNumber_of_not_reserved {n : BitVec 8} (h : ¬ ReservedCfgNumber n) : ∃ r, CfgReg.ofNumber n = some r := by
  rw [← ofNumber_eq_none] at h
  exact Option.ne_none_iff_exists'.mp h

/-- Settles O56: both numbers name registers; the write of a legal value is accepted, and what the read then answers is `read_write`, two
registers being the same exactly when their numbers are. -/
theorem cfgWriteIsReadBackAndWritesNothingElse : Obligations.CfgWriteIsReadBackAndWritesNothingElse := by
  intro s n m v hn hv hm
  obtain ⟨r, hr⟩ := ofNumber_of_not_reserved hn
  obtain ⟨r', hr'⟩ := ofNumber_of_not_reserved hm
  have hlegal : r.legal v = true := by simpa [illegal_iff n r v hr] using hv
  have hsame : r' = r ↔ m = n := by
    rw [← ofNumber_number n r hr, ← ofNumber_number m r' hr']
    exact ⟨congrArg _, number_injective r' r⟩
  refine ⟨_, _, _, s.cfg.read r', exec_cfgWr_legal s n v r hr hlegal, ⟨rfl, rfl, rfl, rfl, rfl, rfl, rfl⟩,
    exec_cfgRd_register s m r' hr', rfl, exec_cfgRd_register _ m r' hr', ⟨⟨rfl, rfl, rfl, rfl, rfl, rfl⟩, rfl, rfl⟩, ?_⟩
  simp [Emits, read_write, hsame]

/-- The register map lists every register with its own number and its value (R40). -/
theorem cfgRegisterMap_eq (c : CfgRegs) : cfgRegisterMap c = CfgReg.all.map (fun r => (r.number, c.read r)) := rfl

/-- Settles O57: a row of the register map is a register with its own number, and under that number it is found. -/
theorem cfgReadAnswersTheNumberedRegister : Obligations.CfgReadAnswersTheNumberedRegister := by
  intro s p hp
  rw [cfgRegisterMap_eq] at hp
  obtain ⟨r, -, rfl⟩ := List.mem_map.mp hp
  exact ⟨_, exec_cfgRd_register s r.number r (number_ofNumber r), ⟨⟨rfl, rfl, rfl, rfl, rfl, rfl⟩, rfl, rfl⟩, rfl⟩

end Sys2Proof.Machine
end

section
/-! The memory family (20_memory.md): the reads have no side effect (R68), and the pulse pairs of a marshalled A32 frame (R63). -/

namespace Sys2Proof.Machine

/-- Putting something out writes no register. -/
theorem noRegisterWritten_append (s : State) (os : List Output) : NoRegisterWritten s (s.append os) :=
  ⟨⟨rfl, rfl, rfl, rfl, rfl, rfl⟩, rfl, rfl⟩

/-! ## The reads (R68) -/

/-- Each of the four reads only responds, and its response does not depend on what has been put out. -/
theorem exec_read {i : Instr} (hread : i.op ∈ [Op.cfgRd, .ppmCh, .ppmChs, .ppmStale]) (s : State) :
    ∃ c ds, exec i s = .next (s.respond c ds) ∧ ∀ os, exec i (s.append os) = .next ((s.append os).respond c ds) := by
  cases i
  case cfgRd n =>
    cases hn : CfgReg.ofNumber n with
    | none => exact ⟨_, _, exec_cfgRd_reserved s n hn, fun os => exec_cfgRd_reserved _ n hn⟩
    | some r => exact ⟨_, _, exec_cfgRd_register s n r hn, fun os => exec_cfgRd_register _ n r hn⟩
  case ppmCh n =>
    cases hn : channel? s.cfg n.toNat with
    | none => exact ⟨_, _, exec_ppmCh_none s n hn, fun os => exec_ppmCh_none _ n hn⟩
    | some k => exact ⟨_, _, exec_ppmCh_channel s n k hn, fun os => exec_ppmCh_channel _ n k hn⟩
  case ppmChs => exact ⟨_, _, exec_ppmChs s, fun os => exec_ppmChs _⟩
  case ppmStale => exact ⟨_, _, exec_ppmStale s, fun os => exec_ppmStale _⟩
  all_goals simp [Instr.op] at hread

/-- Settles O26: the state after a read differs from the one before it in what has been put out only, which the read does not depend on
(`exec_read`). -/
theorem readsHaveNoSideEffectAndRepeat : Obligations.ReadsHaveNoSideEffectAndRepeat := by
  intro i s hread
  obtain ⟨c, ds, hfirst, hagain⟩ := exec_read hread s
  exact ⟨_, _, hfirst, noRegisterWritten_append s _, rfl, _, hagain _, noRegisterWritten_append _ _, rfl⟩

/-! ## The frame of A32.MARSHAL (R63) -/

theorem a32Frame_length (c : CfgRegs) (w : Word) : (a32Frame c w).length = 34 := by
  simp [a32Frame]

theorem a32Frame_start (c : CfgRegs) (w : Word) : (a32Frame c w)[0]? = some { on := c.a32TxStartA, off := c.a32TxStartS } := rfl

/-- The pairs after the start pair are those of the word's bits, bit 0 first (R140). -/
theorem a32Frame_bit (c : CfgRegs) (w : Word) {k : Nat} (hk : k < 32) : (a32Frame c w)[k + 1]? = some (a32BitPair c (w.getLsbD k)) := by
  have hlen : k < ((List.range Config.a32W).map (fun i => a32BitPair c (w.getLsbD i))).length := by simpa using hk
  rw [a32Frame, List.getElem?_cons_succ, List.getElem?_append_left hlen, List.getElem?_map, List.getElem?_range hk, Option.map_some]

theorem a32Frame_terminator (c : CfgRegs) (w : Word) : (a32Frame c w)[33]? = some { on := c.a32TxZeroA, off := c.a32TxZeroS } := rfl

/-- A32.MARSHAL puts out the frame's pairs, then its response (R71, R140). -/
theorem exec_a32Marshal_append (s : State) (w : Word) :
    exec (.a32Marshal w) s = .next (s.append ((a32Frame s.cfg w).map .tx ++ [okResponse])) := by
  rw [exec_a32Marshal, State.append, ← List.append_assoc]
  rfl

/-- Settles O35: the pairs put out are those of `a32Frame`, whose parts the lemmas above give. -/
theorem a32MarshalEmitsThirtyFourPairs : Obligations.A32MarshalEmitsThirtyFourPairs := by
  intro s w
  exact ⟨_, _, exec_a32Marshal_append s w, noRegisterWritten_append s _, rfl, a32Frame_length s.cfg w, a32Frame_start s.cfg w,
    fun k hk => a32Frame_bit s.cfg w hk, a32Frame_terminator s.cfg w⟩

end Sys2Proof.Machine
end

section
/-! The encoding family (30_encoding.md), its facts: the operation map read row by row, and which operands a row's operation takes. -/

namespace Sys2Proof

/-! ## The operation map, row by row (R85) -/

/-- The `OP` code of a row. -/
def Op.code : Op → BitVec 8
  | .pulse => 0x01
  | .gfcPulse | .a32Pulse | .p9Pulse | .ppmPulse => 0x02
  | .dispReg => 0x03
  | .a32Marshal => 0x10
  | .a32Unmarshal => 0x11
  | .p9Marshal => 0x12
  | .ppmCh => 0x20
  | .ppmChs => 0x21
  | .ppmStale => 0x22
  | .cfgWr => 0x30
  | .cfgRd => 0x31

/-- The `SEL` values that a row allows (R83, R90). -/
def Op.AllowsSel (o : Op) (sel : BitVec 8) : Prop :=
  match o with
  | .pulse | .gfcPulse | .a32Marshal | .p9Marshal | .ppmChs | .ppmStale => sel = 0
  | .a32Pulse => sel = 1
  | .p9Pulse => sel = 2
  | .ppmPulse => sel = 3
  | .dispReg => sel.toNat ≤ 3
  | .a32Unmarshal => sel.extractLsb' 1 7 = 0
  | .ppmCh | .cfgWr | .cfgRd => True

/-- The mask of DISP.REG leaves the two low bits of `SEL` free: the decoder ids. -/
theorem and_0xFC_eq_zero_iff (sel : BitVec 8) : sel &&& 0xFC = 0 ↔ sel.toNat ≤ 3 := by
  revert sel
  decide

/-- The mask of A32.UNMARSHAL leaves bit 0 of `SEL` free: the destination flag. -/
theorem and_0xFE_eq_zero_iff (sel : BitVec 8) : sel &&& 0xFE = 0 ↔ sel.extractLsb' 1 7 = 0 := by
  revert sel
  decide

/-- What a row's pattern and mask say of the two fields of a header. -/
theorem OpRow.selects_iff {row : OpRow} (hrow : row ∈ opTable) (op sel : BitVec 8) :
    row.selects (sel ++ op : BitVec 16) = true ↔ op = row.op.code ∧ row.op.AllowsSel sel := by
  have and_255 (x : BitVec 8) : x &&& 255 = x := BitVec.and_allOnes
  have and_0 (x : BitVec 8) : x &&& 0 = 0 := BitVec.and_zero
  rw [opTable_split] at hrow
  simp only [List.mem_cons, List.not_mem_nil, or_false] at hrow
  rcases hrow with rfl | rfl | rfl | rfl | rfl | rfl | rfl | rfl | rfl | rfl | rfl | rfl | rfl | rfl <;>
    simp only [OpRow.selects, append_and_beq, Bool.and_eq_true, beq_iff_eq, Op.code, Op.AllowsSel, and_255, and_0,
      and_0xFC_eq_zero_iff, and_0xFE_eq_zero_iff]

/-- Two rows that one header selects agree on the bits that both of their masks look at. -/
theorem OpRow.selects_agree {hdr : BitVec 16} {r₁ r₂ : OpRow} (h₁ : r₁.selects hdr = true) (h₂ : r₂.selects hdr = true) :
    r₁.pattern &&& r₂.mask = r₂.pattern &&& r₁.mask := by
  rw [← eq_of_beq h₁, ← eq_of_beq h₂, BitVec.and_assoc, BitVec.and_assoc, BitVec.and_comm r₁.mask]

/-- Any two rows of the map differ on a bit that both of their masks look at. -/
theorem row_eq_of_agree : ∀ r₁ ∈ opTable, ∀ r₂ ∈ opTable, r₁.pattern &&& r₂.mask = r₂.pattern &&& r₁.mask → r₁ = r₂ := by
  decide

/-- The row that is found is one of the map's, and selects the header. -/
theorem exists_row_of_selectOp {hdr : BitVec 16} {o : Op} (h : selectOp hdr = some o) :
    ∃ row ∈ opTable, row.selects hdr = true ∧ row.op = o := by
  obtain ⟨row, hfind, hop⟩ := Option.map_eq_some_iff.mp h
  exact ⟨row, List.mem_of_find?_eq_some hfind, List.find?_some (p := fun row : OpRow => row.selects hdr) hfind, hop⟩

/-- A row that selects the header is the one found, whatever its place in the map (R87). -/
theorem selectOp_of_selects {row : OpRow} {hdr : BitVec 16} (hrow : row ∈ opTable) (h : row.selects hdr = true) :
    selectOp hdr = some row.op := by
  obtain ⟨found, hfind⟩ := Option.isSome_iff_exists.mp ((List.find?_isSome (p := fun row : OpRow => row.selects hdr)).mpr ⟨row, hrow, h⟩)
  have hselects : found.selects hdr = true := List.find?_some (p := fun row : OpRow => row.selects hdr) hfind
  obtain rfl : found = row := row_eq_of_agree _ (List.mem_of_find?_eq_some hfind) _ hrow (OpRow.selects_agree hselects h)
  exact congrArg (Option.map OpRow.op) hfind

/-- Every operation has its row. -/
theorem exists_row_of_op (o : Op) : ∃ row ∈ opTable, row.op = o := by
  cases o <;> decide

/-- A request selects a row exactly by the row's `OP` code with a `SEL` that the row allows (R85, R87). -/
theorem selectOp_eq_some_iff (r : ReqWord) (o : Op) :
    selectOp (reqHdr r) = some o ↔ reqOp r = o.code ∧ o.AllowsSel (reqSel r) := by
  rw [reqHdr_eq]
  constructor
  · intro h
    obtain ⟨row, hrow, hselects, rfl⟩ := exists_row_of_selectOp h
    exact (OpRow.selects_iff hrow _ _).mp hselects
  · intro h
    obtain ⟨row, hrow, rfl⟩ := exists_row_of_op o
    exact selectOp_of_selects hrow ((OpRow.selects_iff hrow _ _).mpr h)

/-- No row of the map is selected exactly when every row has another `OP` or does not allow the `SEL`. -/
theorem selectOp_eq_none_iff (r : ReqWord) :
    selectOp (reqHdr r) = none ↔ ∀ o : Op, reqOp r = o.code → ¬ o.AllowsSel (reqSel r) := by
  simp only [Option.eq_none_iff_forall_ne_some, ne_eq, selectOp_eq_some_iff, not_and]

/-! ## Operands (R82) -/

/-- The rows whose operation takes `A` (R82). -/
def Op.usesA : Op → Bool
  | .pulse | .gfcPulse | .a32Pulse | .p9Pulse | .ppmPulse | .a32Marshal | .a32Unmarshal | .p9Marshal | .cfgWr => true
  | .dispReg | .ppmCh | .ppmChs | .ppmStale | .cfgRd => false

/-- The rows whose operation takes `B` (R82). -/
def Op.usesB : Op → Bool
  | .pulse | .gfcPulse | .a32Pulse | .p9Pulse | .ppmPulse => true
  | _ => false

/-- A row builds its operation from `SEL` and the operands it uses. -/
theorem build_congr {o : Op} {r r' : ReqWord} (hsel : reqSel r = reqSel r') (ha : o.usesA = true → reqA r = reqA r')
    (hb : o.usesB = true → reqB r = reqB r') : o.build r = o.build r' := by
  cases o
  case pulse | gfcPulse | a32Pulse | p9Pulse | ppmPulse => simp only [Op.build, ha rfl, hb rfl]
  case a32Marshal | a32Unmarshal | p9Marshal | cfgWr => simp only [Op.build, hsel, ha rfl]
  case dispReg | ppmCh | ppmChs | ppmStale | cfgRd => simp only [Op.build, hsel]

/-! ## What the encoder gives back -/

/-- A `SEL` that is a decoder id is the number of the decoder it names (R27). -/
theorem bits_ofBits_of_le_three (sel : BitVec 8) (h : sel.toNat ≤ 3) :
    (DecoderId.ofBits (sel.extractLsb' 0 2)).bits.setWidth 8 = sel := by
  revert sel
  decide

/-- A `SEL` whose bits 7:1 are 0 is its destination flag. -/
theorem ite_getLsbD_zero (sel : BitVec 8) (h : sel.extractLsb' 1 7 = 0) : (if sel.getLsbD 0 then 1 else 0 : BitVec 8) = sel := by
  revert sel
  decide

/-- The encoder writes an operation that was read from a request back with the same header, the operands it uses, and 0 for the
others (R102). -/
theorem encode_build {r : ReqWord} {o : Op} (h : selectOp (reqHdr r) = some o) :
    encode (o.build r)
      = mkRequest (reqOp r) (reqSel r) (if o.usesA then reqA r else 0) (if o.usesB then reqB r else 0) := by
  obtain ⟨hop, hsel⟩ := (selectOp_eq_some_iff r o).mp h
  rw [hop]
  cases o
  case dispReg => exact congrArg (mkRequest 0x03 · 0 0) (bits_ofBits_of_le_three _ hsel)
  case a32Unmarshal => exact congrArg (mkRequest 0x11 · (reqA r) 0) (ite_getLsbD_zero _ hsel)
  case ppmCh | cfgWr | cfgRd => rfl
  all_goals
    rw [show reqSel r = _ from hsel]
    rfl

/-- The header the encoder writes selects the operation's own row. -/
theorem selectOp_encode (i : Instr) : selectOp (reqHdr (encode i)) = some i.op := by
  rw [selectOp_eq_some_iff]
  cases i
  case dispReg id => cases id <;> simp [encode, Instr.op, Op.code, Op.AllowsSel, DecoderId.bits]
  case a32Unmarshal dst word => cases dst <;> simp [encode, Instr.op, Op.code, Op.AllowsSel]
  all_goals simp [encode, Instr.op, Op.code, Op.AllowsSel]

/-- The id of a decoder is read back from the `SEL` that it is written in. -/
theorem ofBits_bits (id : DecoderId) : DecoderId.ofBits ((id.bits.setWidth 8).extractLsb' 0 2) = id := by
  cases id <;> rfl

/-- The operation's row reads every operand back from the word that the encoder writes. -/
theorem build_encode (i : Instr) : i.op.build (encode i) = i := by
  cases i
  case a32Unmarshal dst word => cases dst <;> simp [encode, Instr.op, Op.build]
  all_goals simp [encode, Instr.op, Op.build, ofBits_bits]

end Sys2Proof
end

section
/-! The encoding family (30_encoding.md): decoder and encoder, reserved requests, unused operands, assembler text. -/

namespace Sys2Proof

/-! ## Decode and encode -/

/-- Settles O1: the encoder writes a header of the operation's own row (`selectOp_encode`), and that row reads the operands back
(`build_encode`). -/
theorem decodeOfEncodeIsIdentity : Obligations.DecodeOfEncodeIsIdentity := by
  intro i
  rw [decode_of_selectOp _ _ (selectOp_encode i), build_encode]

/-- Settles O2: `encode_build` gives the four fields of the re-encoded word; an operand that is used is the request's own. -/
theorem encodeOfDecodeKeepsUsedFields : Obligations.EncodeOfDecodeKeepsUsedFields := by
  intro r i h
  obtain ⟨o, hselect, rfl⟩ := decode_ok_inv r i h
  rw [op_build, encode_build hselect]
  refine ⟨?_, fun ho => ?_, fun ho => ?_⟩
  · rw [reqHdr_mkRequest, reqHdr_eq]
  · have uses : ∀ o ∈ [Op.pulse, .gfcPulse, .a32Pulse, .p9Pulse, .ppmPulse], o.usesA = true ∧ o.usesB = true := by decide
    obtain ⟨ha, hb⟩ := uses o ho
    rw [if_pos ha, if_pos hb, mkRequest_fields]
  · have uses : ∀ o ∈ [Op.a32Marshal, .a32Unmarshal, .p9Marshal, .cfgWr], o.usesA = true := by decide
    rw [reqA_mkRequest, if_pos (uses o ho)]

/-- The row of the operation that a request decodes to, if it decodes, is the row its header selects. -/
theorem op_decode (r : ReqWord) : (decode r).toOption.map Instr.op = selectOp (reqHdr r) := by
  unfold decode
  cases selectOp (reqHdr r) with
  | none => rfl
  | some o => exact congrArg some (op_build o r)

/-- Settles O3: the row is a function of the header (`op_decode`). -/
theorem headerAloneSelectsTheOperation : Obligations.HeaderAloneSelectsTheOperation := by
  intro r r' hhdr
  rw [op_decode, op_decode, hhdr]

/-- Settles O4: two different rows differ on a bit both of their masks look at (`row_eq_of_agree`), where a header has only one value. -/
theorem operationMapRowsDoNotOverlap : Obligations.OperationMapRowsDoNotOverlap :=
  fun _ r₁ r₂ hr₁ hr₂ h₁ h₂ => row_eq_of_agree r₁ hr₁ r₂ hr₂ (OpRow.selects_agree h₁ h₂)

end Sys2Proof

namespace Sys2Proof.Machine

/-! ## Reserved requests (R90) -/

/-- A step with a reserved request answers it with ERR_ILLEGAL_OP (R90, R242). -/
theorem step_reserved (s : State) (word : ReqWord) (now : Time) (rest : List Input) (e : DecodeError)
    (hin : s.inputs = .request word now :: rest) (hdec : decode word = .error e) :
    step s = .next (s.accept now rest).illegalRequest := by
  simp only [step, hin, hdec]

/-- The four cases of R90 are together the headers that select no row: a header outside all four selects a row, and in each of the four a row
with this `OP` does not allow the `SEL`. -/
theorem selectOp_eq_none_iff_reserved (r : ReqWord) :
    selectOp (reqHdr r) = none ↔
      reqOp r ∉ [0x01, 0x02, 0x03, 0x10, 0x11, 0x12, 0x20, 0x21, 0x22, 0x30, 0x31]
      ∨ (reqOp r ∈ [0x01, 0x10, 0x12, 0x21, 0x22] ∧ reqSel r ≠ 0)
      ∨ (reqOp r ∈ [0x02, 0x03] ∧ 3 < (reqSel r).toNat)
      ∨ (reqOp r = 0x11 ∧ (reqSel r).extractLsb' 1 7 ≠ 0) := by
  rw [selectOp_eq_none_iff]
  generalize reqOp r = op, reqSel r = sel
  constructor
  · intro h
    by_contra hlegal
    simp only [not_or, not_and, not_not, not_lt, ne_eq] at hlegal
    obtain ⟨hop, hzero, hid, hdst⟩ := hlegal
    simp only [List.mem_cons, List.not_mem_nil, or_false] at hop
    rcases hop with rfl | rfl | rfl | rfl | rfl | rfl | rfl | rfl | rfl | rfl | rfl
    · exact h .pulse rfl (hzero (by decide))
    · have hle : sel.toNat ≤ 3 := hid (by decide)
      have hsel : sel = 0 ∨ sel = 1 ∨ sel = 2 ∨ sel = 3 := by bv_omega
      rcases hsel with hsel | hsel | hsel | hsel
      · exact h .gfcPulse rfl hsel
      · exact h .a32Pulse rfl hsel
      · exact h .p9Pulse rfl hsel
      · exact h .ppmPulse rfl hsel
    · exact h .dispReg rfl (hid (by decide))
    · exact h .a32Marshal rfl (hzero (by decide))
    · exact h .a32Unmarshal rfl (hdst rfl)
    · exact h .p9Marshal rfl (hzero (by decide))
    · exact h .ppmCh rfl trivial
    · exact h .ppmChs rfl (hzero (by decide))
    · exact h .ppmStale rfl (hzero (by decide))
    · exact h .cfgWr rfl trivial
    · exact h .cfgRd rfl trivial
  · rintro (hop | ⟨hop, hne⟩ | ⟨hop, hgt⟩ | ⟨hop, hne⟩) o rfl hsel
    · exact hop (by cases o <;> decide)
    · cases o
      case pulse | a32Marshal | p9Marshal | ppmChs | ppmStale => exact hne hsel
      all_goals exact absurd hop (by decide)
    · cases o
      case gfcPulse | a32Pulse | p9Pulse | ppmPulse =>
        cases hsel
        exact absurd hgt (by decide)
      case dispReg => exact absurd hsel (Nat.not_le.mpr hgt)
      all_goals exact absurd hop (by decide)
    · cases o
      case a32Unmarshal => exact hne hsel
      all_goals exact absurd hop (by decide)

/-- Settles O5: a request is refused when no row is selected, which is R90's four cases (`selectOp_eq_none_iff_reserved`); the step on it is
`step_reserved`. -/
theorem reservedRequestsAreAnsweredIllegalOp : Obligations.ReservedRequestsAreAnsweredIllegalOp := by
  refine ⟨fun r => (decode_error_iff r).trans (selectOp_eq_none_iff_reserved r), fun s r now rest e hin hdec => ?_⟩
  exact ⟨_, step_reserved s r now rest e hin hdec, ⟨rfl, rfl, rfl, rfl, rfl, rfl⟩, rfl, rfl, rfl⟩

/-! ## Unused operands (R82) -/

/-- Two requests that decode alike, presented with the same sample, are stepped alike. -/
theorem step_congr_decode (s : State) {r r' : ReqWord} (now : Time) (rest : List Input) (h : decode r = decode r') :
    step { s with inputs := .request r now :: rest } = step { s with inputs := .request r' now :: rest } := by
  cases hdec : decode r with
  | ok i =>
    rw [step_request _ r now rest i rfl hdec, step_request _ r' now rest i rfl (h.symm.trans hdec)]
    rfl
  | error e =>
    rw [step_reserved _ r now rest e rfl hdec, step_reserved _ r' now rest e rfl (h.symm.trans hdec)]
    rfl

/-- `SEL` is the high byte of the header (R80). -/
theorem reqSel_eq_extractLsb' (r : ReqWord) : reqSel r = (reqHdr r).extractLsb' 8 8 := by
  rw [reqHdr_eq, BitVec.extractLsb'_append_eq_left]

/-- Two requests with the same header, and the same operands where the operation uses them, decode alike (R82). -/
theorem decode_congr {r r' : ReqWord} {i : Instr} (hdec : decode r = .ok i) (hhdr : reqHdr r = reqHdr r')
    (ha : i.op.usesA = true → reqA r = reqA r') (hb : i.op.usesB = true → reqB r = reqB r') : decode r = decode r' := by
  obtain ⟨o, hselect, rfl⟩ := decode_ok_inv r i hdec
  rw [op_build] at ha hb
  have hsel : reqSel r = reqSel r' := by rw [reqSel_eq_extractLsb', hhdr, ← reqSel_eq_extractLsb']
  rw [decode_of_selectOp r o hselect, decode_of_selectOp r' o (hhdr ▸ hselect), build_congr hsel ha hb]

/-- Settles O27: the operation uses neither operand, or not `B`, so the two requests decode alike (`decode_congr`). -/
theorem unusedOperandsAreIgnored : Obligations.UnusedOperandsAreIgnored := by
  intro s r r' now rest i hdec hhdr
  refine ⟨fun ho => ?_, fun ho ha => ?_⟩
  · have unused : ∀ o ∈ [Op.dispReg, .ppmCh, .ppmChs, .ppmStale, .cfgRd], o.usesA ≠ true ∧ o.usesB ≠ true := by decide
    obtain ⟨hna, hnb⟩ := unused i.op ho
    exact step_congr_decode s now rest (decode_congr hdec hhdr (absurd · hna) (absurd · hnb))
  · have unused : ∀ o ∈ [Op.a32Marshal, .a32Unmarshal, .p9Marshal, .cfgWr], o.usesB ≠ true := by decide
    exact step_congr_decode s now rest (decode_congr hdec hhdr (fun _ => ha) (absurd · (unused i.op ho)))

/-- Settles O6: each word is decoded. -/
theorem specWordsDecode : Obligations.SpecWordsDecode := by
  unfold Obligations.SpecWordsDecode
  decide

/-! ## Assembler text (R100 to R103) -/

/-- A line that assembles puts its requests, at its own `now` or else the previous one, before those of the rest, which goes on from
there (R100). -/
theorem assembleFrom_cons (prev : Time) {line : List Char} (lines : List (List Char)) {l : AsmLine} (hline : asmLine? line = some l) :
    assembleFrom prev (line :: lines)
      = (assembleFrom (l.now.getD prev) lines).map (requestsAt (l.now.getD prev) l.ops ++ ·) := by
  rw [assembleFrom, hline]
  rfl

/-- Settles O60 by `assembleFrom_cons`; a program starts from `now` = 0 by definition of `assemble`. -/
theorem assembledRequestsInheritTheirTime : Obligations.AssembledRequestsInheritTheirTime := by
  intro prev line lines l rest hline hrest
  refine ⟨?_, rfl⟩
  rw [assembleFrom_cons prev lines hline, hrest, Option.map_some]

/-- Settles O59: each line is assembled. -/
theorem specLinesAssemble : Obligations.SpecLinesAssemble := by
  unfold Obligations.SpecLinesAssemble
  decide

end Sys2Proof.Machine
end

section
/-! The GFC family (41_generic_fixed_code.md): what one GFC pulse does, and the frame of a start marker and ten data pulses. -/

namespace Sys2Proof.Machine

/-! ## One pulse -/

/-- GFC.PULSE writes what the decoder's step gives to the GFC registers and nothing else, and puts out the step's event before its
response (R110). -/
theorem exec_gfcPulse_of_gfcStep {s : State} {on off : Dur} {r : GfcRegs} {e : Option Event} (h : gfcStep s.cfg on off s.gfc = (r, e)) :
    ∃ t, exec (.gfcPulse on off) s = .next t ∧ t.gfc = r ∧ OnlyGfcWritten s t ∧ Emits s t (e.toList.map .event ++ [okResponse]) := by
  refine ⟨_, exec_gfcPulse s on off, congrArg Prod.fst h, ⟨rfl, rfl, rfl, rfl, rfl, rfl, rfl⟩, ?_⟩
  simp [Emits, h, okResponse]

/-- Settles O28: above the start threshold the step is the marker's, whatever the counter is (`gfcStep_cases`). -/
theorem gfcStartMarkerClears : Obligations.GfcStartMarkerClears := by
  intro s on off hmarker
  rcases gfcStep_cases s.cfg on off s.gfc with ⟨-, hstep⟩ | ⟨hdata, -⟩ | ⟨hdata, -⟩
  · obtain ⟨t, hexec, hgfc, hframe, hout⟩ := exec_gfcPulse_of_gfcStep hstep
    exact ⟨t, hexec, congrArg GfcRegs.acc hgfc, congrArg GfcRegs.cnt hgfc, hframe, hout⟩
  all_goals exact absurd hmarker (Nat.not_lt.mpr hdata)

/-- Settles O29: with the counter at 10 a data pulse's step gives the registers back (`gfcStep_cases`). -/
theorem gfcClampedIgnoresDataPulses : Obligations.GfcClampedIgnoresDataPulses := by
  intro s on off hdata hclamped
  rcases gfcStep_cases s.cfg on off s.gfc with ⟨hmarker, -⟩ | ⟨-, -, hstep⟩ | ⟨-, hopen, -⟩
  · exact absurd hmarker (Nat.not_lt.mpr hdata)
  · obtain ⟨t, hexec, hgfc, ⟨ha32, hp9, hppm, hdisp, hcfg, hports⟩, hout⟩ := exec_gfcPulse_of_gfcStep hstep
    exact ⟨t, hexec, ⟨⟨hgfc, ha32, hp9, hppm, hdisp, hcfg⟩, hports⟩, hout⟩
  · exact absurd hclamped hopen

/-- Settles O30: below 10 a data pulse's step writes its bit at the counter and counts up (`gfcStep_cases`, `getLsbD_setBit`); the new
counter is 10 exactly when the old one is 9. -/
theorem gfcDataPulseAppendsItsBit : Obligations.GfcDataPulseAppendsItsBit := by
  intro s on off hdata hcnt
  rcases gfcStep_cases s.cfg on off s.gfc with ⟨hmarker, -⟩ | ⟨-, hclamped, -⟩ | ⟨-, -, hstep⟩
  · exact absurd hmarker (Nat.not_lt.mpr hdata)
  · exact absurd hclamped hcnt.ne
  · obtain ⟨t, hexec, hgfc, hframe, hout⟩ := exec_gfcPulse_of_gfcStep hstep
    have hsucc : (s.gfc.cnt + 1).toNat = s.gfc.cnt.toNat + 1 := by bv_omega
    refine ⟨t, hexec, hframe, by rw [hgfc, hsucc], fun k hk => ?_, ?_⟩
    · rw [hgfc, getLsbD_setBit, above_eq_decide]
      simp only [hk, and_true]
    · have hfull : (s.gfc.cnt + 1).toNat = 10 ↔ s.gfc.cnt.toNat = 9 := by omega
      rw [hgfc]
      simp only [hfull] at hout
      split at hout
      · next hlast => rwa [if_pos hlast]
      · next hlast => rwa [if_neg hlast]

/-! ## A frame of ten data pulses -/

/-- A request that the encoder wrote runs its operation, because it decodes to it (O1). -/
theorem step_encoded {s : State} {i : Instr} {now : Time} {rest : List Input} (hin : s.inputs = .request (encode i) now :: rest) :
    step s = exec i (s.accept now rest) :=
  step_request s _ now rest i hin (decodeOfEncodeIsIdentity i)

/-- A run followed by one step more. -/
theorem run_snoc {k : Nat} {s t u : State} (h : Host.Core.run Sys2Proof.core k s = .next t) (hstep : step t = .next u) :
    Host.Core.run Sys2Proof.core (k + 1) s = .next u := by
  rw [run_append k 1 s t h, run_succ 0 t u hstep]
  rfl

/-- The GFC operations of the pulses of a frame from the `k`-th on. -/
def gfcPulsesFrom (d : Fin 10 → PulsePair) (k : Nat) : List Instr :=
  ((List.finRange 10).drop k).map (fun j => .gfcPulse (d j).on (d j).off)

theorem gfcPulsesFrom_eq_cons (d : Fin 10 → PulsePair) {k : Nat} (hk : k < 10) :
    gfcPulsesFrom d k = .gfcPulse (d ⟨k, hk⟩).on (d ⟨k, hk⟩).off :: gfcPulsesFrom d (k + 1) := by
  rw [gfcPulsesFrom, List.drop_eq_getElem_cons (by simpa using hk)]
  simp [gfcPulsesFrom]

/-- The machine `t` after a start marker in `s` and the first `k` of the data pulses `d`: the accumulator holds their bits, the
others are still presented, and the one event is out exactly when all ten are in (R111, R113 to R115). -/
structure GfcFrameAfter (s : State) (d : Fin 10 → PulsePair) (now : Time) (rest : List Input) (k : Nat) (t : State) : Prop where
  cfg : t.cfg = s.cfg
  inputs : t.inputs = requestsAt now (gfcPulsesFrom d k) ++ rest
  cnt : t.gfc.cnt.toNat = k
  acc : ∀ j : Fin 10, j.val < k → t.gfc.acc.getLsbD j = decide (s.cfg.gfcOneDeassert.toNat < (d j).off.toNat)
  events : t.events = s.events ++ if k = 10 then [{ kind := .gfc, payload := t.gfc.acc.setWidth 32 }] else []

section
variable {s : State} {on off : Dur} {d : Fin 10 → PulsePair} {now : Time} {rest : List Input}

/-- The start marker's step begins the frame (O28). -/
theorem step_gfc_marker (hmarker : s.cfg.gfcStartAssert.toNat < on.toNat)
    (hin : s.inputs = requestsAt now (.gfcPulse on off :: gfcPulsesFrom d 0) ++ rest) :
    ∃ u, step s = .next u ∧ u.gfc.acc = 0 ∧ u.gfc.cnt = 0 ∧ GfcFrameAfter s d now rest 0 u := by
  obtain ⟨u, hexec, hacc, hcnt, ⟨-, -, -, -, hcfg, -, hinputs⟩, hout⟩ :=
    gfcStartMarkerClears (s.accept now (requestsAt now (gfcPulsesFrom d 0) ++ rest)) on off hmarker
  refine ⟨u, (step_encoded hin).trans hexec, hacc, hcnt, hcfg, hinputs, by simp [hcnt], fun j hj => absurd hj (Nat.not_lt_zero _), ?_⟩
  exact State.events_eq _ _ _ hout

/-- Each data pulse's step adds its bit to the frame, the tenth with the event (O30). -/
theorem step_gfc_data {t : State} {k : Nat} (hdata : ∀ j, (d j).on.toNat ≤ s.cfg.gfcStartAssert.toNat) (hk : k < 10)
    (h : GfcFrameAfter s d now rest k t) : ∃ u, step t = .next u ∧ GfcFrameAfter s d now rest (k + 1) u := by
  obtain ⟨hcfg, hin, hcnt, hacc, hevents⟩ := h
  rw [gfcPulsesFrom_eq_cons d hk] at hin
  rw [← hcfg] at hdata hacc
  obtain ⟨u, hexec, ⟨-, -, -, -, hcfg', -, hinputs⟩, hcnt', hacc', hout⟩ :=
    gfcDataPulseAppendsItsBit (t.accept now (requestsAt now (gfcPulsesFrom d (k + 1)) ++ rest)) _ _ (hdata ⟨k, hk⟩) (hcnt.trans_lt hk)
  simp only [State.accept_gfc, State.accept_cfg, hcnt] at hcnt' hacc' hout
  refine ⟨u, (step_encoded hin).trans hexec, hcfg'.trans hcfg, hinputs, hcnt', fun j hj => ?_, ?_⟩
  · rw [hacc' j j.isLt, ← hcfg]
    split
    · next hjk => simp only [← hjk, Fin.eta]
    · exact hacc j (by omega)
  · rw [State.events_eq _ _ _ hout, State.events, State.accept_out, ← State.events, hevents, if_neg hk.ne]
    by_cases hlast : k = 9 <;> simp [hlast]

/-- The start marker and the first `k` data pulses run without a stop. -/
theorem run_gfc_frame (hmarker : s.cfg.gfcStartAssert.toNat < on.toNat) (hdata : ∀ j, (d j).on.toNat ≤ s.cfg.gfcStartAssert.toNat)
    (hin : s.inputs = requestsAt now (.gfcPulse on off :: gfcPulsesFrom d 0) ++ rest) :
    ∀ k ≤ 10, ∃ t, Host.Core.run Sys2Proof.core (k + 1) s = .next t ∧ GfcFrameAfter s d now rest k t := by
  intro k hk
  induction k with
  | zero =>
    obtain ⟨u, hstep, -, -, hframe⟩ := step_gfc_marker hmarker hin
    exact ⟨u, run_succ 0 s u hstep, hframe⟩
  | succ k ih =>
    obtain ⟨t, hrun, hframe⟩ := ih (Nat.le_of_succ_le hk)
    obtain ⟨u, hstep, hframe'⟩ := step_gfc_data hdata hk hframe
    exact ⟨u, run_snoc hrun hstep, hframe'⟩

end

/-- Settles O31: the eleven steps end in the frame after ten pulses (`run_gfc_frame`), whose event carries the accumulator with 0 above it. -/
theorem gfcTenPulsesYieldOneEvent : Obligations.GfcTenPulsesYieldOneEvent := by
  intro s on off d now rest hmarker hdata hin
  obtain ⟨u, hstep, hacc, hcnt, -⟩ := step_gfc_marker hmarker hin
  obtain ⟨t, hrun, hframe⟩ := run_gfc_frame hmarker hdata hin 10 le_rfl
  refine ⟨⟨u, hstep, hacc, hcnt⟩, t, t.gfc.acc.setWidth 32, hrun, hframe.events, fun k => ?_, fun k hk => ?_⟩
  · rw [BitVec.getLsbD_setWidth, decide_eq_true (by omega), Bool.true_and, hframe.acc k k.isLt]
  · rw [BitVec.getLsbD_setWidth, BitVec.getLsbD_of_ge _ _ hk, Bool.and_false]

end Sys2Proof.Machine
end

section
/-! The A32 family (42_addressed32.md): what one A32 pulse does, the marshalled frame fed back to the decoder, and the frame word's halves. -/

namespace Sys2Proof.Machine

/-! ## One pulse -/

/-- A32.PULSE writes what the decoder's step gives to the A32 registers and nothing else, and puts out the step's event before its
response (R130). -/
theorem exec_a32Pulse_of_a32Step {s : State} {on off : Dur} {r : A32Regs} {e : Option Event} (h : a32Step s.cfg on off s.a32 = (r, e)) :
    ∃ t, exec (.a32Pulse on off) s = .next t ∧ t.a32 = r ∧ OnlyA32Written s t ∧ Emits s t (e.toList.map .event ++ [okResponse]) := by
  refine ⟨_, exec_a32Pulse s on off, congrArg Prod.fst h, ⟨rfl, rfl, rfl, rfl, rfl, rfl, rfl⟩, ?_⟩
  simp [Emits, h, okResponse]

/-- A pulse whose step gives the decoder's registers back and no event writes no register and only responds. -/
theorem exec_a32Pulse_ignored {s : State} {on off : Dur} (h : a32Step s.cfg on off s.a32 = (s.a32, none)) :
    ∃ t, exec (.a32Pulse on off) s = .next t ∧ NoRegisterWritten s t ∧ Emits s t [okResponse] := by
  obtain ⟨t, hexec, ha32, ⟨hgfc, hp9, hppm, hdisp, hcfg, hports⟩, hout⟩ := exec_a32Pulse_of_a32Step h
  exact ⟨t, hexec, ⟨⟨hgfc, ha32, hp9, hppm, hdisp, hcfg⟩, hports⟩, hout⟩

/-- Settles O32: in the repeat band the step gives the registers back, before any other test (`a32Step_cases`). -/
theorem a32RepeatBandIsIgnored : Obligations.A32RepeatBandIsIgnored := by
  intro s on off hrepeat
  rcases a32Step_cases s.cfg on off s.a32 with ⟨-, hstep⟩ | ⟨hother, -⟩ | ⟨hother, -⟩ | ⟨hother, -⟩
  · exact exec_a32Pulse_ignored hstep
  all_goals exact absurd hrepeat (Nat.not_lt.mpr hother)

/-- Settles O33: in the start band the assert duration alone decides between the cleared registers and the old ones (`a32Step_cases`). -/
theorem a32StartBandClearsOrDrops : Obligations.A32StartBandClearsOrDrops := by
  intro s on off hnotRepeat hstart
  rcases a32Step_cases s.cfg on off s.a32 with ⟨hrepeat, -⟩ | ⟨-, -, hstep⟩ | ⟨-, hdata, -⟩ | ⟨-, hdata, -⟩
  · exact absurd hrepeat (Nat.not_lt.mpr hnotRepeat)
  · refine ⟨fun hlong => ?_, fun hshort => ?_⟩
    · rw [if_pos hlong] at hstep
      obtain ⟨t, hexec, ha32, hframe, hout⟩ := exec_a32Pulse_of_a32Step hstep
      exact ⟨t, hexec, congrArg A32Regs.acc ha32, congrArg A32Regs.cnt ha32, hframe, hout⟩
    · rw [if_neg (Nat.not_lt.mpr hshort)] at hstep
      exact exec_a32Pulse_ignored hstep
  all_goals exact absurd hstart (Nat.not_lt.mpr hdata)

/-- Settles O34: in neither band the step appends the bit at the counter, the event exactly when the new counter is 32, or, at 32, gives
the registers back (`a32Step_cases`, `getLsbD_setBit`). -/
theorem a32DataPulseAppendsItsBitOrIsClamped : Obligations.A32DataPulseAppendsItsBitOrIsClamped := by
  intro s on off hnotRepeat hnotStart
  rcases a32Step_cases s.cfg on off s.a32 with ⟨hrepeat, -⟩ | ⟨-, hstart, -⟩ | ⟨-, -, hclamped, hstep⟩ | ⟨-, -, hopen, hstep⟩
  · exact absurd hrepeat (Nat.not_lt.mpr hnotRepeat)
  · exact absurd hstart (Nat.not_lt.mpr hnotStart)
  · exact ⟨fun hcnt => absurd hclamped hcnt.ne, fun _ => exec_a32Pulse_ignored hstep⟩
  · refine ⟨fun hcnt => ?_, fun hclamped => absurd hclamped hopen⟩
    obtain ⟨t, hexec, ha32, hframe, hout⟩ := exec_a32Pulse_of_a32Step hstep
    have hsucc : (s.a32.cnt + 1).toNat = s.a32.cnt.toNat + 1 := by bv_omega
    have hfull : (s.a32.cnt + 1).toNat = 32 ↔ s.a32.cnt.toNat = 31 := by omega
    refine ⟨t, hexec, hframe, by rw [ha32, hsucc], fun k hk => ?_, ?_⟩
    · rw [ha32, getLsbD_setBit, above_eq_decide]
      simp only [hk, and_true]
    · rw [ha32]
      simp only [hfull] at hout
      split at hout
      · next hlast => rwa [if_pos hlast]
      · next hlast => rwa [if_neg hlast]

/-! ## The marshalled frame, fed to the decoder (R142) -/

/-- The decoder's operations for the pairs of a marshalled frame from the `k`-th on. -/
def a32FrameFrom (c : CfgRegs) (w : Word) (k : Nat) : List Instr :=
  ((a32Frame c w).drop k).map (fun p => .a32Pulse p.on p.off)

theorem a32FrameFrom_eq_cons {c : CfgRegs} {w : Word} {k : Nat} {p : PulsePair} (hp : (a32Frame c w)[k]? = some p) :
    a32FrameFrom c w k = .a32Pulse p.on p.off :: a32FrameFrom c w (k + 1) := by
  rw [a32FrameFrom, List.drop_eq_getElem?_toList_append, hp]
  rfl

/-- Under the conditions of R142 the pair of a bit is in neither band. -/
theorem A32RoundTripConfig.bitPair_off {c : CfgRegs} (h : A32RoundTripConfig c) (b : Bool) :
    (a32BitPair c b).off.toNat ≤ c.a32StartDeassert.toNat ∧ (a32BitPair c b).off.toNat ≤ c.a32IgnoreDeassert.toNat := by
  cases b
  · exact h.zeroOff
  · exact h.oneOff

/-- Under the conditions of R142 the pair of a bit is classified as that bit. -/
theorem A32RoundTripConfig.bitPair_on {c : CfgRegs} (h : A32RoundTripConfig c) (b : Bool) :
    decide (c.a32OneAssert.toNat < (a32BitPair c b).on.toNat) = b := by
  cases b
  · exact decide_eq_false (Nat.not_lt.mpr h.zeroOn)
  · exact decide_eq_true h.oneOn

/-- The machine `t` after the start pair of the frame of `w` in `s` and the pairs of its first `k` bits: the accumulator holds these
bits, the other pairs are still presented, and the one event is out exactly when all 32 bits are in. -/
structure A32FrameAfter (s : State) (w : Word) (now : Time) (rest : List Input) (k : Nat) (t : State) : Prop where
  cfg : t.cfg = s.cfg
  inputs : t.inputs = requestsAt now (a32FrameFrom s.cfg w (k + 1)) ++ rest
  cnt : t.a32.cnt.toNat = k
  acc : ∀ j < k, t.a32.acc.getLsbD j = w.getLsbD j
  events : t.events = s.events ++ if k = 32 then [{ kind := .a32, payload := t.a32.acc }] else []

section
variable {s t : State} {w : Word} {now : Time} {rest : List Input}

/-- A machine to which a frame's pairs from the `k`-th on are presented feeds the `k`-th to the decoder. -/
theorem step_a32FrameFrom {c : CfgRegs} {k : Nat} {p : PulsePair} (hp : (a32Frame c w)[k]? = some p)
    (hin : t.inputs = requestsAt now (a32FrameFrom c w k) ++ rest) :
    step t = exec (.a32Pulse p.on p.off) (t.accept now (requestsAt now (a32FrameFrom c w (k + 1)) ++ rest)) := by
  rw [a32FrameFrom_eq_cons hp] at hin
  exact step_encoded hin

/-- The start pair begins the frame from any decoder state (O33). -/
theorem step_a32_start (hc : A32RoundTripConfig s.cfg) (hin : s.inputs = requestsAt now (a32FrameFrom s.cfg w 0) ++ rest) :
    ∃ u, step s = .next u ∧ A32FrameAfter s w now rest 0 u := by
  obtain ⟨u, hexec, -, hcnt, ⟨-, -, -, -, hcfg, -, hinputs⟩, hout⟩ :=
    (a32StartBandClearsOrDrops (s.accept now (requestsAt now (a32FrameFrom s.cfg w 1) ++ rest)) _ _ hc.startNotIgnored hc.startBand).1
      hc.startAssert
  refine ⟨u, (step_a32FrameFrom (a32Frame_start s.cfg w) hin).trans hexec, hcfg, hinputs, by simp [hcnt],
    fun j hj => absurd hj (Nat.not_lt_zero j), ?_⟩
  exact State.events_eq _ _ _ hout

/-- The pair of each bit adds the bit to the frame, the 32nd with the event (O34). -/
theorem step_a32_bit {k : Nat} (hc : A32RoundTripConfig s.cfg) (hk : k < 32) (h : A32FrameAfter s w now rest k t) :
    ∃ u, step t = .next u ∧ A32FrameAfter s w now rest (k + 1) u := by
  obtain ⟨hcfg, hin, hcnt, hacc, hevents⟩ := h
  rw [← hcfg] at hc hin
  obtain ⟨hnotStart, hnotRepeat⟩ := hc.bitPair_off (w.getLsbD k)
  obtain ⟨u, hexec, ⟨-, -, -, -, hcfg', -, hinputs⟩, hcnt', hacc', hout⟩ :=
    (a32DataPulseAppendsItsBitOrIsClamped (t.accept now (requestsAt now (a32FrameFrom t.cfg w (k + 2)) ++ rest))
      (a32BitPair t.cfg (w.getLsbD k)).on _ hnotRepeat hnotStart).1 (hcnt.trans_lt hk)
  simp only [State.accept_a32, State.accept_cfg, hcnt] at hcnt' hacc' hout
  refine ⟨u, (step_a32FrameFrom (a32Frame_bit t.cfg w hk) hin).trans hexec, hcfg'.trans hcfg, hcfg ▸ hinputs, hcnt', fun j hj => ?_, ?_⟩
  · rw [hacc' j (by omega)]
    split
    · next hjk => exact hjk ▸ hc.bitPair_on _
    · exact hacc j (by omega)
  · rw [State.events_eq _ _ _ hout, State.events, State.accept_out, ← State.events, hevents, if_neg hk.ne]
    by_cases hlast : k = 31 <;> simp [hlast]

/-- The start pair and the pairs of the first `k` bits run without a stop. -/
theorem run_a32_bits (hc : A32RoundTripConfig s.cfg) (hin : s.inputs = requestsAt now (a32FrameFrom s.cfg w 0) ++ rest) :
    ∀ k ≤ 32, ∃ t, Host.Core.run Sys2Proof.core (k + 1) s = .next t ∧ A32FrameAfter s w now rest k t := by
  intro k hk
  induction k with
  | zero =>
    obtain ⟨u, hstep, hframe⟩ := step_a32_start hc hin
    exact ⟨u, run_succ 0 s u hstep, hframe⟩
  | succ k ih =>
    obtain ⟨t, hrun, hframe⟩ := ih (Nat.le_of_succ_le hk)
    obtain ⟨u, hstep, hframe'⟩ := step_a32_bit hc hk hframe
    exact ⟨u, run_snoc hrun hstep, hframe'⟩

/-- After 32 bits the accumulator is the word. -/
theorem A32FrameAfter.acc_eq (h : A32FrameAfter s w now rest 32 t) : t.a32.acc = w :=
  BitVec.eq_of_getLsbD_eq h.acc

/-- The terminating pair lands on a clamped decoder, which ignores it (R136, O34). -/
theorem step_a32_terminator (hc : A32RoundTripConfig s.cfg) (h : A32FrameAfter s w now rest 32 t) :
    ∃ u, step t = .next u ∧ u.a32 = t.a32 ∧ u.events = t.events := by
  have hin := h.inputs
  rw [← h.cfg] at hc hin
  obtain ⟨hnotStart, hnotRepeat⟩ := hc.bitPair_off false
  obtain ⟨u, hexec, ⟨⟨-, ha32, -⟩, -⟩, hout⟩ :=
    (a32DataPulseAppendsItsBitOrIsClamped (t.accept now (requestsAt now (a32FrameFrom t.cfg w 34) ++ rest))
      (a32BitPair t.cfg false).on _ hnotRepeat hnotStart).2 h.cnt
  refine ⟨u, (step_a32FrameFrom (a32Frame_terminator t.cfg w) hin).trans hexec, ha32, ?_⟩
  exact (State.events_eq _ _ _ hout).trans (List.append_nil _)

end

/-- The pairs that A32.MARSHAL adds to the transmit stream are those of the frame. -/
theorem a32Marshal_txPairs {s u : State} {w : Word} (h : exec (.a32Marshal w) s = .next u) :
    u.txPairs = s.txPairs ++ a32Frame s.cfg w := by
  obtain rfl : s.append ((a32Frame s.cfg w).map .tx ++ [okResponse]) = u :=
    Host.Outcome.next.inj ((exec_a32Marshal_append s w).symm.trans h)
  rw [State.txPairs_eq s _ _ (State.append_out s _), List.filterMap_append, filterMap_tx_map_tx, filterMap_tx_okResponse, List.append_nil]

theorem a32RoundTripConfig_reset : A32RoundTripConfig CfgRegs.reset := by
  constructor <;> decide

/-- Settles O36: the marshalled pairs are the frame's, the first 33 end in the frame after 32 bits (`run_a32_bits`), and the
terminating pair changes nothing. -/
theorem a32MarshalledFrameDecodesToItself : Obligations.A32MarshalledFrameDecodesToItself := by
  refine ⟨a32RoundTripConfig_reset, fun s u w ps now rest hc hmarshal hps hin => ?_⟩
  obtain rfl : ps = a32Frame s.cfg w := List.append_cancel_left (hps.symm.trans (a32Marshal_txPairs hmarshal))
  obtain ⟨t, hrun, hframe⟩ := run_a32_bits hc hin 32 le_rfl
  obtain ⟨v, hstep, ha32, hevents⟩ := step_a32_terminator hc hframe
  refine ⟨v, run_snoc hrun hstep, ?_, ha32 ▸ hframe.acc_eq, ha32 ▸ hframe.cnt⟩
  rw [hevents, hframe.events, if_pos rfl, hframe.acc_eq]

/-! ## The halves of a frame word (R145, R146) -/

theorem toNat_frameAddress (w : Word) : (frameAddress w).toNat = w.toNat % 65536 := by
  simp only [frameAddress, BitVec.toNat_setWidth, BitVec.extractLsb'_toNat, Nat.shiftRight_zero]
  omega

theorem toNat_frameCommand (w : Word) : (frameCommand w).toNat = w.toNat / 65536 := by
  simp only [frameCommand, BitVec.toNat_setWidth, BitVec.extractLsb'_toNat, Nat.shiftRight_eq_div_pow]
  omega

/-- Settles O37: both cases only respond, and the two words of the data are the word's halves. -/
theorem a32UnmarshalSplitsTheWordOrReportsNullDest : Obligations.A32UnmarshalSplitsTheWordOrReportsNullDest := by
  intro s w
  exact ⟨⟨_, _, _, exec_a32Unmarshal_present s w, noRegisterWritten_append s _, rfl, toNat_frameAddress w, toNat_frameCommand w⟩,
    _, exec_a32Unmarshal_absent s w, noRegisterWritten_append s _, rfl⟩

end Sys2Proof.Machine
end

section
/-! The P9 family (43_parity9.md): what one P9 pulse does, the frame of a start marker and nine data pulses, the pairs of a marshalled byte,
and these pairs fed back to the decoder. -/

namespace Sys2Proof.Machine

/-! ## One pulse -/

/-- P9.PULSE writes what the decoder's step gives to the P9 registers and nothing else, and puts out the step's event before its
response (R160). -/
theorem exec_p9Pulse_of_p9Step {s : State} {off : Dur} (on : Dur) {r : P9Regs} {e : Option Event} (h : p9Step s.cfg off s.p9 = (r, e)) :
    ∃ t, exec (.p9Pulse on off) s = .next t ∧ t.p9 = r ∧ OnlyP9Written s t ∧ Emits s t (e.toList.map .event ++ [okResponse]) := by
  refine ⟨_, exec_p9Pulse s on off, congrArg Prod.fst h, ⟨rfl, rfl, rfl, rfl, rfl, rfl, rfl⟩, ?_⟩
  simp [Emits, h, okResponse]

/-- Settles O38: above the start threshold the step is the marker's, whatever the registers hold (`p9Step_cases`). -/
theorem p9StartMarkerClears : Obligations.P9StartMarkerClears := by
  intro s on off hmarker
  rcases p9Step_cases s.cfg off s.p9 with ⟨-, hstep⟩ | ⟨hdata, -⟩ | ⟨hdata, -⟩
  · obtain ⟨t, hexec, hp9, hframe, hout⟩ := exec_p9Pulse_of_p9Step on hstep
    exact ⟨t, hexec, congrArg P9Regs.acc hp9, congrArg P9Regs.cnt hp9, congrArg P9Regs.par hp9, hframe, hout⟩
  all_goals exact absurd hmarker (Nat.not_lt.mpr hdata)

/-- The ninth pulse's bit is the parity bit: it is not among the 8 bits delivered (R164). -/
theorem extractLsb'_ninth_bit (v : BitVec 9) (b : Bool) :
    (if b then setBit v 8 true else v).extractLsb' 0 8 = v.setWidth 8 := by
  cases b
  · rfl
  · refine BitVec.eq_of_getLsbD_eq fun k hk => ?_
    rw [if_pos rfl, BitVec.getLsbD_extractLsb', getLsbD_setBit, if_neg (by omega), BitVec.getLsbD_setWidth, Nat.zero_add]

/-- Settles O39: below 8 the step writes a 1 at the counter and inverts the flag, or leaves both, and counts up; at 8 the new counter
would be 9, so the step delivers on the flag with this bit and clears (`p9Step_cases`, `getLsbD_setBit`). -/
theorem p9DataPulseAppendsItsBitOrEndsTheFrame : Obligations.P9DataPulseAppendsItsBitOrEndsTheFrame := by
  intro s on off hdata
  have hsucc : (s.p9.cnt + 1).toNat = 9 ↔ s.p9.cnt.toNat = 8 := by bv_omega
  rcases p9Step_cases s.cfg off s.p9 with ⟨hmarker, -⟩ | ⟨-, hninth, hstep⟩ | ⟨-, hopen, hstep⟩
  · exact absurd hmarker (Nat.not_lt.mpr hdata)
  · have hcnt : s.p9.cnt.toNat = 8 := hsucc.mp hninth
    refine ⟨fun hlt => absurd hcnt hlt.ne, fun _ => ?_⟩
    obtain ⟨t, hexec, hp9, hframe, hout⟩ := exec_p9Pulse_of_p9Step on hstep
    refine ⟨t, hexec, hframe, congrArg P9Regs.acc hp9, congrArg P9Regs.cnt hp9, congrArg P9Regs.par hp9, ?_⟩
    rw [hcnt, extractLsb'_ninth_bit, above_eq_decide] at hout
    split at hout
    · next hodd => rwa [if_pos hodd]
    · next heven => rwa [if_neg heven]
  · refine ⟨fun hlt => ?_, fun hcnt => absurd (hsucc.mpr hcnt) hopen⟩
    obtain ⟨t, hexec, hp9, hframe, hout⟩ := exec_p9Pulse_of_p9Step on hstep
    refine ⟨t, hexec, hframe, by rw [hp9]; bv_omega, fun k hk => ?_, congrArg P9Regs.par hp9, hout⟩
    rw [hp9]
    by_cases hone : s.cfg.p9OneDeassert.toNat < off.toNat
    · simp only [above_iff, hone, if_true, and_true, getLsbD_setBit, hk]
    · simp [hone]

/-! ## A frame of nine data pulses -/

/-- The P9 operations of the pulses of a frame from the `k`-th on. -/
def p9PulsesFrom (d : Fin 9 → PulsePair) (k : Nat) : List Instr :=
  ((List.finRange 9).drop k).map (fun j => .p9Pulse (d j).on (d j).off)

theorem p9PulsesFrom_eq_cons (d : Fin 9 → PulsePair) {k : Nat} (hk : k < 9) :
    p9PulsesFrom d k = .p9Pulse (d ⟨k, hk⟩).on (d ⟨k, hk⟩).off :: p9PulsesFrom d (k + 1) := by
  rw [p9PulsesFrom, List.drop_eq_getElem_cons (by simpa using hk)]
  simp [p9PulsesFrom]

/-- The number of ones among the first `k` pulses of a frame, a pulse being a 1 when its deassert duration is above the threshold (R162). -/
def p9Ones (c : CfgRegs) (d : Fin 9 → PulsePair) (k : Nat) : Nat :=
  ((List.finRange 9).take k).countP (fun j => decide (c.p9OneDeassert.toNat < (d j).off.toNat))

/-- A pulse's bit inverts the parity of the number of ones before it. -/
theorem p9Ones_succ_odd (c : CfgRegs) (d : Fin 9 → PulsePair) {k : Nat} (hk : k < 9) :
    decide (p9Ones c d (k + 1) % 2 = 1)
      = (decide (p9Ones c d k % 2 = 1) ^^ decide (c.p9OneDeassert.toNat < (d ⟨k, hk⟩).off.toNat)) := by
  have hlast : p9Ones c d (k + 1) = p9Ones c d k + if c.p9OneDeassert.toNat < (d ⟨k, hk⟩).off.toNat then 1 else 0 := by
    rw [p9Ones, List.take_succ_eq_append_getElem (by simpa using hk), List.countP_append]
    simp [p9Ones, List.countP_cons]
  rw [hlast]
  by_cases hone : c.p9OneDeassert.toNat < (d ⟨k, hk⟩).off.toNat
  · simp only [hone, if_true, decide_true, Bool.xor_true, ← decide_not, decide_eq_decide]
    omega
  · simp [hone]

/-- The machine `t` after a start marker in `s` and the first `k` of the data pulses `d`, none of them the ninth: the accumulator holds
their bits with 0 above them, the flag is 1 when their ones are odd in number, the others are still presented, and no event is out
(R161, R162, R165). -/
structure P9FrameAfter (s : State) (d : Fin 9 → PulsePair) (now : Time) (rest : List Input) (k : Nat) (t : State) : Prop where
  cfg : t.cfg = s.cfg
  inputs : t.inputs = requestsAt now (p9PulsesFrom d k) ++ rest
  cnt : t.p9.cnt.toNat = k
  acc : ∀ j : Fin 9, t.p9.acc.getLsbD j = decide (j.val < k ∧ s.cfg.p9OneDeassert.toNat < (d j).off.toNat)
  par : t.p9.par = decide (p9Ones s.cfg d k % 2 = 1)
  events : t.events = s.events

section
variable {s t : State} {on off : Dur} {d : Fin 9 → PulsePair} {now : Time} {rest : List Input}

/-- A machine to which a frame's pulses from the `k`-th on are presented feeds the `k`-th to the decoder. -/
theorem step_p9PulsesFrom {k : Nat} (hk : k < 9) (hin : t.inputs = requestsAt now (p9PulsesFrom d k) ++ rest) :
    step t = exec (.p9Pulse (d ⟨k, hk⟩).on (d ⟨k, hk⟩).off) (t.accept now (requestsAt now (p9PulsesFrom d (k + 1)) ++ rest)) := by
  rw [p9PulsesFrom_eq_cons d hk] at hin
  exact step_encoded hin

/-- The start marker's step begins the frame from any decoder state (O38). -/
theorem step_p9_marker (hmarker : s.cfg.p9StartDeassert.toNat < off.toNat)
    (hin : s.inputs = requestsAt now (.p9Pulse on off :: p9PulsesFrom d 0) ++ rest) :
    ∃ u, step s = .next u ∧ P9FrameAfter s d now rest 0 u := by
  obtain ⟨u, hexec, hacc, hcnt, hpar, ⟨-, -, -, -, hcfg, -, hinputs⟩, hout⟩ :=
    p9StartMarkerClears (s.accept now (requestsAt now (p9PulsesFrom d 0) ++ rest)) on off hmarker
  refine ⟨u, (step_encoded hin).trans hexec, hcfg, hinputs, by simp [hcnt], fun j => by simp [hacc], hpar, ?_⟩
  exact (State.events_eq _ _ _ hout).trans (List.append_nil _)

/-- Each of the first eight data pulses adds its bit to the frame (O39). -/
theorem step_p9_data {k : Nat} (hdata : ∀ j, (d j).off.toNat ≤ s.cfg.p9StartDeassert.toNat) (hk : k < 8)
    (h : P9FrameAfter s d now rest k t) : ∃ u, step t = .next u ∧ P9FrameAfter s d now rest (k + 1) u := by
  obtain ⟨hcfg, hin, hcnt, hacc, hpar, hevents⟩ := h
  have hk9 : k < 9 := hk.trans (by decide)
  rw [← hcfg] at hdata hacc hpar
  obtain ⟨u, hexec, ⟨-, -, -, -, hcfg', -, hinputs⟩, hcnt', hacc', hpar', hout⟩ :=
    (p9DataPulseAppendsItsBitOrEndsTheFrame (t.accept now (requestsAt now (p9PulsesFrom d (k + 1)) ++ rest))
      (d ⟨k, hk9⟩).on _ (hdata ⟨k, hk9⟩)).1 (hcnt.trans_lt hk)
  simp only [State.accept_p9, State.accept_cfg, hcnt] at hcnt' hacc'
  refine ⟨u, (step_p9PulsesFrom hk9 hin).trans hexec, hcfg'.trans hcfg, hinputs, hcnt', fun j => ?_, ?_, ?_⟩
  · rw [hacc' j j.isLt, hacc j, ← hcfg]
    by_cases hjk : j.val = k
    · obtain rfl : j = ⟨k, hk9⟩ := Fin.ext hjk
      simp
    · have hlt : j.val < k ↔ j.val < k + 1 := by omega
      simp [hjk, hlt]
  · rw [← hcfg, p9Ones_succ_odd t.cfg d hk9, ← hpar]
    exact hpar'
  · rw [State.events_eq _ _ _ hout, filterMap_event_okResponse, List.append_nil]
    exact hevents

/-- The start marker and the first `k` data pulses, none of them the ninth, run without a stop. -/
theorem run_p9_data (hmarker : s.cfg.p9StartDeassert.toNat < off.toNat) (hdata : ∀ j, (d j).off.toNat ≤ s.cfg.p9StartDeassert.toNat)
    (hin : s.inputs = requestsAt now (.p9Pulse on off :: p9PulsesFrom d 0) ++ rest) :
    ∀ k ≤ 8, ∃ t, Host.Core.run Sys2Proof.core (k + 1) s = .next t ∧ P9FrameAfter s d now rest k t := by
  intro k hk
  induction k with
  | zero =>
    obtain ⟨u, hstep, hframe⟩ := step_p9_marker hmarker hin
    exact ⟨u, run_succ 0 s u hstep, hframe⟩
  | succ k ih =>
    obtain ⟨t, hrun, hframe⟩ := ih (Nat.le_of_succ_le hk)
    obtain ⟨u, hstep, hframe'⟩ := step_p9_data hdata hk hframe
    exact ⟨u, run_snoc hrun hstep, hframe'⟩

/-- The ninth data pulse delivers the eight bits before it when the nine have an odd number of ones, and clears the decoder (O39). -/
theorem step_p9_ninth (hdata : ∀ j, (d j).off.toNat ≤ s.cfg.p9StartDeassert.toNat) (h : P9FrameAfter s d now rest 8 t) :
    ∃ u, step t = .next u ∧ u.p9.acc = 0 ∧ u.p9.cnt = 0 ∧ u.p9.par = false
      ∧ u.events = s.events ++
        if p9Ones s.cfg d 9 % 2 = 1 then [{ kind := .p9, payload := (t.p9.acc.setWidth 8).setWidth 32 }] else [] := by
  obtain ⟨hcfg, hin, hcnt, -, hpar, hevents⟩ := h
  rw [← hcfg] at hdata hpar ⊢
  obtain ⟨u, hexec, -, hacc', hcnt', hpar', hout⟩ :=
    (p9DataPulseAppendsItsBitOrEndsTheFrame (t.accept now (requestsAt now (p9PulsesFrom d 9) ++ rest)) (d 8).on _ (hdata 8)).2 hcnt
  refine ⟨u, (step_p9PulsesFrom (by decide) hin).trans hexec, hacc', hcnt', hpar', ?_⟩
  have hodd : decide (p9Ones t.cfg d 9 % 2 = 1) = (t.p9.par ^^ decide (t.cfg.p9OneDeassert.toNat < (d 8).off.toNat)) :=
    hpar ▸ p9Ones_succ_odd t.cfg d (k := 8) (by decide)
  rw [State.events_eq _ _ _ hout, State.events, State.accept_out, ← State.events, hevents, List.filterMap_append,
    filterMap_event_okResponse, List.append_nil]
  split
  · next hflag => rw [if_pos (of_decide_eq_true (hodd.trans hflag))]; rfl
  · next hflag => rw [if_neg fun hones => hflag (hodd.symm.trans (decide_eq_true hones))]; rfl

end

/-- Settles O40: nine steps end in the frame after eight pulses (`run_p9_data`), and the ninth pulse decides on the parity of the ones. -/
theorem p9FrameIsDeliveredExactlyWhenItsParityIsOdd : Obligations.P9FrameIsDeliveredExactlyWhenItsParityIsOdd := by
  intro s on off d now rest hmarker hdata hin
  obtain ⟨t, hrun, hframe⟩ := run_p9_data hmarker hdata hin 8 le_rfl
  obtain ⟨u, hstep, hacc, hcnt, hpar, hevents⟩ := step_p9_ninth hdata hframe
  refine ⟨u, (t.p9.acc.setWidth 8).setWidth 32, run_snoc hrun hstep, hacc, hcnt, hpar, hevents, fun k => ?_, fun k hk => ?_⟩
  · have hbit := hframe.acc ⟨k, by omega⟩
    simp only [k.isLt, true_and] at hbit
    rw [BitVec.getLsbD_setWidth, decide_eq_true (by omega), Bool.true_and, BitVec.getLsbD_setWidth, decide_eq_true k.isLt, Bool.true_and,
      hbit]
  · rw [BitVec.getLsbD_setWidth, BitVec.getLsbD_of_ge _ _ hk, Bool.and_false]

/-! ## The frame of P9.MARSHAL (R172) -/

theorem p9Frame_length (c : CfgRegs) (b : BitVec 8) : (p9Frame c b).length = 10 := rfl

theorem p9Frame_start (c : CfgRegs) (b : BitVec 8) : (p9Frame c b)[0]? = some { on := c.p9TxStartA, off := c.p9TxStartS } := rfl

/-- The pairs after the start pair are those of the byte's bits, bit 0 first (R170). -/
theorem p9Frame_bit (c : CfgRegs) (b : BitVec 8) {k : Nat} (hk : k < 8) : (p9Frame c b)[k + 1]? = some (p9BitPair c (b.getLsbD k)) := by
  have hlen : k < ((List.range 8).map (fun i => p9BitPair c (b.getLsbD i))).length := by simpa using hk
  rw [p9Frame, List.getElem?_cons_succ, List.getElem?_append_left hlen, List.getElem?_map, List.getElem?_range hk, Option.map_some]

theorem p9Frame_parity (c : CfgRegs) (b : BitVec 8) : (p9Frame c b)[9]? = some (p9BitPair c (oddParityBit b)) := rfl

/-- P9.MARSHAL of a byte puts out the frame's pairs, then its response (R71, R170). -/
theorem exec_p9Marshal_append (s : State) {w : Word} (hw : w.toNat < 256) :
    exec (.p9Marshal w) s = .next (s.append ((p9Frame s.cfg (w.setWidth 8)).map .tx ++ [okResponse])) := by
  rw [exec_p9Marshal_byte s w _ (dataByte_lt w hw), State.append, ← List.append_assoc]
  rfl

/-- Settles O41: the pairs put out are those of `p9Frame` of the low byte, whose parts the lemmas above give, the parity bit by
`oddParityBit_eq`; a wider operand only raises its status. -/
theorem p9MarshalEmitsTenPairsOrBadOperand : Obligations.P9MarshalEmitsTenPairsOrBadOperand := by
  refine fun s w => ⟨fun hbyte => ?_, fun hwide => ?_⟩
  · refine ⟨_, _, exec_p9Marshal_append s hbyte, noRegisterWritten_append s _, rfl, p9Frame_length s.cfg _, p9Frame_start s.cfg _,
      fun k hk => ?_, ?_⟩
    · rw [p9Frame_bit s.cfg _ hk, BitVec.getLsbD_setWidth, decide_eq_true hk, Bool.true_and, p9BitPair]
    · rw [p9Frame_parity, oddParityBit_eq, p9BitPair]
      simp only [decide_eq_true_eq]
  · exact ⟨_, exec_p9Marshal_wide s w (dataByte_ge w hwide), noRegisterWritten_append s _, rfl⟩

/-! ## The marshalled frame, fed to the decoder (R174) -/

/-- The nine bits of a frame: the byte with its parity bit above it (R172). -/
def p9FrameBits (b : BitVec 8) : BitVec 9 := b.cons (oddParityBit b)

theorem p9FrameBits_getLsbD_of_lt (b : BitVec 8) {k : Nat} (hk : k < 8) : (p9FrameBits b).getLsbD k = b.getLsbD k := by
  rw [p9FrameBits, BitVec.getLsbD_cons, if_neg hk.ne]

theorem p9FrameBits_getLsbD_eight (b : BitVec 8) : (p9FrameBits b).getLsbD 8 = oddParityBit b := by
  rw [p9FrameBits, BitVec.getLsbD_cons, if_pos rfl]

/-- The pairs of a frame's nine bits. -/
def p9DataPairs (c : CfgRegs) (b : BitVec 8) (k : Fin 9) : PulsePair := p9BitPair c ((p9FrameBits b).getLsbD k)

theorem p9Frame_eq_cons (c : CfgRegs) (b : BitVec 8) :
    p9Frame c b = { on := c.p9TxStartA, off := c.p9TxStartS } :: (List.finRange 9).map (p9DataPairs c b) := by
  have hpairs : (List.finRange 9).map (p9DataPairs c b) = (List.range 9).map (fun k => p9BitPair c ((p9FrameBits b).getLsbD k)) := by
    rw [← List.map_coe_finRange_eq_range, List.map_map]
    rfl
  rw [hpairs, List.range_succ, List.map_append, p9Frame]
  congr 2
  · exact List.map_congr_left fun k hk => by rw [p9FrameBits_getLsbD_of_lt b (List.mem_range.mp hk)]
  · rw [List.map_singleton, p9FrameBits_getLsbD_eight]

/-- The nine bits of a frame have an odd number of ones (R172). -/
theorem p9FrameBits_odd (w : Word) : (List.range 9).countP (p9FrameBits (w.setWidth 8)).getLsbD % 2 = 1 := by
  have hbyte : (List.range 8).countP (p9FrameBits (w.setWidth 8)).getLsbD = (List.range 8).countP (fun k => w.getLsbD k) :=
    List.countP_congr fun k hk => by
      have hk := List.mem_range.mp hk
      rw [p9FrameBits_getLsbD_of_lt _ hk, BitVec.getLsbD_setWidth, decide_eq_true hk, Bool.true_and]
  rw [List.range_succ, List.countP_append, hbyte, List.countP_singleton, p9FrameBits_getLsbD_eight, oddParityBit_eq]
  simp only [decide_eq_true_eq]
  split <;> omega

/-- Under the conditions of R174 the pair of a bit is no start marker. -/
theorem P9RoundTripConfig.bitPair_data {c : CfgRegs} (h : P9RoundTripConfig c) (b : Bool) :
    (p9BitPair c b).off.toNat ≤ c.p9StartDeassert.toNat := by
  obtain ⟨hone, hdata⟩ := h.one
  cases b
  · exact h.zero.trans (hone.le.trans hdata)
  · exact hdata

/-- Under the conditions of R174 the pair of a bit is classified as that bit. -/
theorem P9RoundTripConfig.dataPair_off {c : CfgRegs} (h : P9RoundTripConfig c) (b : BitVec 8) (k : Fin 9) :
    decide (c.p9OneDeassert.toNat < (p9DataPairs c b k).off.toNat) = (p9FrameBits b).getLsbD k := by
  rw [p9DataPairs]
  cases (p9FrameBits b).getLsbD k
  · exact decide_eq_false (Nat.not_lt.mpr h.zero)
  · exact decide_eq_true h.one.1

/-- Under the conditions of R174 the pairs of a byte's frame are classified as an odd number of ones. -/
theorem P9RoundTripConfig.dataPairs_odd {c : CfgRegs} (h : P9RoundTripConfig c) (w : Word) :
    (List.finRange 9).countP (fun k => decide (c.p9OneDeassert.toNat < (p9DataPairs c (w.setWidth 8) k).off.toNat)) % 2 = 1 := by
  simp only [h.dataPair_off]
  rw [← p9FrameBits_odd w, ← List.map_coe_finRange_eq_range, List.countP_map]
  rfl

/-- A word that is a byte has no bit from bit 8 on. -/
theorem getLsbD_of_lt_256 {w : Word} (hw : w.toNat < 256) {k : Nat} (hk : 8 ≤ k) : w.getLsbD k = false :=
  Nat.testBit_lt_two_pow (hw.trans_le (Nat.pow_le_pow_right Nat.two_pos hk))

/-- The pairs that P9.MARSHAL of a byte adds to the transmit stream are those of the frame. -/
theorem p9Marshal_txPairs {s u : State} {w : Word} (hw : w.toNat < 256) (h : exec (.p9Marshal w) s = .next u) :
    u.txPairs = s.txPairs ++ p9Frame s.cfg (w.setWidth 8) := by
  obtain rfl : s.append ((p9Frame s.cfg (w.setWidth 8)).map .tx ++ [okResponse]) = u :=
    Host.Outcome.next.inj ((exec_p9Marshal_append s hw).symm.trans h)
  rw [State.txPairs_eq s _ _ (State.append_out s _), List.filterMap_append, filterMap_tx_map_tx, filterMap_tx_okResponse, List.append_nil]

theorem p9RoundTripConfig_reset : P9RoundTripConfig CfgRegs.reset := by
  constructor <;> decide

/-- Settles O42: the marshalled pairs are a start marker and nine data pulses (`p9Frame_eq_cons`) that carry the frame's bits, an odd
number of them ones (`p9FrameBits_odd`), so O40 delivers the first eight, which are the byte. -/
theorem p9MarshalledFrameDecodesToItself : Obligations.P9MarshalledFrameDecodesToItself := by
  refine ⟨p9RoundTripConfig_reset, fun s u w ps now rest hc hw hmarshal hps hin => ?_⟩
  obtain rfl : ps = p9Frame s.cfg (w.setWidth 8) := List.append_cancel_left (hps.symm.trans (p9Marshal_txPairs hw hmarshal))
  rw [p9Frame_eq_cons, List.map_cons, List.map_map] at hin
  obtain ⟨t, v, hrun, -, -, -, hevents, hbits, hhigh⟩ :=
    p9FrameIsDeliveredExactlyWhenItsParityIsOdd s _ _ (p9DataPairs s.cfg (w.setWidth 8)) now rest hc.start
      (fun k => hc.bitPair_data _) hin
  have hv : v = w := BitVec.eq_of_getLsbD_eq fun k _ => by
    by_cases hk : k < 8
    · have hbit := hbits ⟨k, hk⟩
      rw [hc.dataPair_off, p9FrameBits_getLsbD_of_lt _ hk, BitVec.getLsbD_setWidth, decide_eq_true hk, Bool.true_and] at hbit
      exact hbit
    · have hk : 8 ≤ k := Nat.not_lt.mp hk
      rw [hhigh k hk, getLsbD_of_lt_256 hw hk]
  exact ⟨t, hrun, by rw [hevents, if_pos (hc.dataPairs_odd w), hv]⟩

end Sys2Proof.Machine
end

section
/-! The PPM family (44_proportional.md): what one PPM pulse does, the staleness query and the accessors, and a frame read back before and
after the timeout. -/

namespace Sys2Proof.Machine

/-! ## One pulse -/

/-- PPM.PULSE writes what the decoder's step gives to the PPM registers and nothing else, and puts out only its response (R180). -/
theorem exec_ppmPulse_of_ppmStep {s : State} {on off : Dur} {r : PpmRegs} (h : ppmStep s.cfg s.now on off s.ppm = r) :
    ∃ t, exec (.ppmPulse on off) s = .next t ∧ t.ppm = r ∧ OnlyPpmWritten s t ∧ Emits s t [okResponse] :=
  ⟨_, exec_ppmPulse s on off, h, ⟨rfl, rfl, rfl, rfl, rfl, rfl, rfl⟩, rfl⟩

/-- Settles O43: above the marker threshold the step is the marker's, in every state (`ppmStep_cases`). -/
theorem ppmMarkerRecordsTheTime : Obligations.PpmMarkerRecordsTheTime := by
  intro s on off hmarker
  rcases ppmStep_cases s.cfg s.now on off s.ppm with ⟨-, hstep⟩ | ⟨hdata, -⟩ | ⟨hdata, -⟩
  · obtain ⟨t, hexec, hppm, hframe, hout⟩ := exec_ppmPulse_of_ppmStep hstep
    exact ⟨t, hexec, congrArg PpmRegs.last hppm, congrArg PpmRegs.idx hppm, congrArg PpmRegs.synced hppm, by rw [hppm], hframe,
      hout⟩
  all_goals exact absurd hmarker (Nat.not_lt.mpr hdata)

/-- Settles O44: below the threshold the step gives the registers back, unless the flag is set and the index is below the channel count
(`ppmStep_cases`). -/
theorem ppmPulseIsDroppedUnsyncedOrAtCapacity : Obligations.PpmPulseIsDroppedUnsyncedOrAtCapacity := by
  intro s on off hdata hdropped
  rcases ppmStep_cases s.cfg s.now on off s.ppm with ⟨hmarker, -⟩ | ⟨-, -, hstep⟩ | ⟨-, hsynced, i, -, hidx, -⟩
  · exact absurd hmarker (Nat.not_lt.mpr hdata)
  · obtain ⟨t, hexec, hppm, ⟨hgfc, ha32, hp9, hdisp, hcfg, hports⟩, hout⟩ := exec_ppmPulse_of_ppmStep hstep
    exact ⟨t, hexec, ⟨⟨hgfc, ha32, hp9, hppm, hdisp, hcfg⟩, hports⟩, hout⟩
  · rcases hdropped with hunsynced | hfull
    · exact absurd hsynced (Bool.eq_false_iff.mp hunsynced)
    · exact absurd hidx (Nat.not_lt.mpr hfull)

/-- A channel pulse stores its value in the channel at the index and counts the index up (R184). -/
theorem exec_ppmPulse_channel {s : State} {on off : Dur} (hdata : on.toNat ≤ s.cfg.ppmSyncAssert.toNat) (hsynced : s.ppm.synced = true)
    (hidx : s.ppm.idx.toNat < s.cfg.ppmNch.toNat) (hnch : s.cfg.ppmNch.toNat ≤ 16) :
    ∃ t, exec (.ppmPulse on off) s = .next t
      ∧ (∀ k : Fin 16, t.ppm.ch[k] = if k.val = s.ppm.idx.toNat then channelValue s.cfg on off else s.ppm.ch[k])
      ∧ t.ppm.idx.toNat = s.ppm.idx.toNat + 1 ∧ t.ppm.last = s.ppm.last ∧ t.ppm.synced = true
      ∧ OnlyPpmWritten s t ∧ Emits s t [okResponse] := by
  rcases ppmStep_cases s.cfg s.now on off s.ppm with ⟨hmarker, -⟩ | ⟨-, hdropped, -⟩ | ⟨-, -, i, hi, -, hstep⟩
  · exact absurd hmarker (Nat.not_lt.mpr hdata)
  · rcases hdropped with hunsynced | hfull | hfull
    · exact absurd hsynced (Bool.eq_false_iff.mp hunsynced)
    · omega
    · omega
  · obtain ⟨t, hexec, hppm, hframe, hout⟩ := exec_ppmPulse_of_ppmStep hstep
    refine ⟨t, hexec, fun k => ?_, ?_, by rw [hppm], by rwa [hppm], hframe, hout⟩
    · rw [hppm, ← hi]
      simp only [Fin.getElem_fin, Vector.getElem_set, eq_comm]
    · rw [hppm]
      bv_omega

theorem toNat_channelValue (c : CfgRegs) (on off : Dur) :
    (channelValue c on off).toNat = min (roundTick (on.toNat + off.toNat) c.ppmTick.toNat) (2 ^ 32 - 1) := by
  rw [channelValue, BitVec.toNat_ofNat, Nat.mod_eq_of_lt (by omega)]

/-- Settles O45: the value stored (`exec_ppmPulse_channel`) is the saturated rounding of the sum, and `roundTick_spec` says which multiple
of the tick that is. -/
theorem ppmChannelPulseStoresTheRoundedSum : Obligations.PpmChannelPulseStoresTheRoundedSum := by
  intro s on off hdata hsynced hidx hnch htick
  obtain ⟨t, hexec, hch, hrest⟩ := exec_ppmPulse_channel hdata hsynced hidx hnch
  obtain ⟨q, hq, hlow, hhigh⟩ := roundTick_spec (on.toNat + off.toNat) s.cfg.ppmTick.toNat htick
  exact ⟨t, channelValue s.cfg on off, q, hexec, hch, hlow, hhigh, hq ▸ toNat_channelValue s.cfg on off, hrest⟩

/-! ## The staleness query and the accessors -/

/-- Settles O46: the word answered is the staleness predicate, which is R185's condition (`stale_iff`). -/
theorem ppmStaleAnswersTheStaleness : Obligations.PpmStaleAnswersTheStaleness := fun s =>
  ⟨_, _, exec_ppmStale s, noRegisterWritten_append s _, rfl, fun hstale => if_pos ((stale_iff _ _ _).mpr hstale),
    fun hlive => if_neg fun h => hlive ((stale_iff _ _ _).mp h)⟩

/-- Settles O47: a number below the channel count names a channel, whose word is read from `channelSource`; one at or above it names none. -/
theorem ppmChAnswersLiveSafeOrBadChannel : Obligations.PpmChAnswersLiveSafeOrBadChannel := by
  intro s n
  refine ⟨fun hn hnch => ?_, fun hn => ?_⟩
  · have hn16 : n.toNat < 16 := hn.trans_le hnch
    refine ⟨_, _, exec_ppmCh_channel s n ⟨n.toNat, hn16⟩ ((channel?_eq_some _ _ _).mpr ⟨rfl, hn⟩), noRegisterWritten_append s _, rfl,
      fun hstale => ?_, fun hlive => ?_⟩
    · rw [s.channelSource_stale hstale]
      exact Vector.getElem?_eq_getElem hn16
    · rw [s.channelSource_live hlive]
      exact Vector.getElem?_eq_getElem hn16
  · exact ⟨_, exec_ppmCh_none s n ((channel?_eq_none _ _).mpr (.inr hn)), noRegisterWritten_append s _, rfl⟩

/-- The first words of a vector's list are the vector's. -/
theorem getElem?_take_toList {m n k : Nat} (v : Vector Word m) (hk : k < n) : (v.toList.take n)[k]? = v[k]? := by
  rw [List.getElem?_take_of_lt hk, Vector.getElem?_toList]

/-- Settles O48: the words answered are the first `PPM_NCH` of `channelSource`, which is all safe or all live. -/
theorem ppmChsAnswersAllLiveOrAllSafe : Obligations.PpmChsAnswersAllLiveOrAllSafe := by
  intro s hnch
  have hlen : (s.channelSource.toList.take s.cfg.ppmNch.toNat).length = s.cfg.ppmNch.toNat := by simpa using hnch
  refine ⟨_, _, exec_ppmChs s, noRegisterWritten_append s _, rfl, hlen, fun hstale k hk => ?_, fun hlive k hk => ?_⟩
  · rw [getElem?_take_toList _ (hlen ▸ hk), s.channelSource_stale hstale]
  · rw [getElem?_take_toList _ (hlen ▸ hk), s.channelSource_live hlive]

/-! ## A frame, read before and after the timeout (R189) -/

/-- The PPM operations of a list of pulses. -/
def ppmPulses (ps : List PulsePair) : List Instr := ps.map (fun d => .ppmPulse d.on d.off)

/-- The machine `t` after a marker at `t₀` in `s` and the first `k` of the channel pulses `ps`: the channels they reached hold their values,
the others are still presented, and each operation was answered OK (R181, R184). -/
structure PpmFrameAfter (s : State) (ps : List PulsePair) (t₀ t₁ : Time) (rest : List Input) (k : Nat) (t : State) : Prop where
  cfg : t.cfg = s.cfg
  inputs : t.inputs = requestsAt t₁ (ppmPulses (ps.drop k)) ++ rest
  synced : t.ppm.synced = true
  last : t.ppm.last = t₀
  idx : t.ppm.idx.toNat = k
  ch : ∀ (i : Fin 16) (p : PulsePair), i.val < k → ps[i.val]? = some p → t.ppm.ch[i] = channelValue s.cfg p.on p.off
  out : t.out = s.out ++ List.replicate (k + 1) okResponse

section
variable {s t : State} {m : PulsePair} {ps : List PulsePair} {t₀ t₁ t₂ : Time} {rest : List Input}

/-- The marker's step begins the frame (O43). -/
theorem step_ppm_marker (hmarker : s.cfg.ppmSyncAssert.toNat < m.on.toNat)
    (hin : s.inputs = .request (encode (.ppmPulse m.on m.off)) t₀ :: (requestsAt t₁ (ppmPulses ps) ++ rest)) :
    ∃ u, step s = .next u ∧ PpmFrameAfter s ps t₀ t₁ rest 0 u := by
  obtain ⟨u, hexec, hlast, hidx, hsynced, -, ⟨-, -, -, -, hcfg, -, hinputs⟩, hout⟩ :=
    ppmMarkerRecordsTheTime (s.accept t₀ (requestsAt t₁ (ppmPulses ps) ++ rest)) m.on m.off hmarker
  exact ⟨u, (step_encoded hin).trans hexec, hcfg, hinputs, hsynced, hlast, by simp [hidx], fun i _ hi => absurd hi (Nat.not_lt_zero i), hout⟩

/-- Each channel pulse's step adds its value to the frame. -/
theorem step_ppm_channel {k : Nat} (hdata : ∀ d ∈ ps, d.on.toNat ≤ s.cfg.ppmSyncAssert.toNat) (hlen : ps.length ≤ s.cfg.ppmNch.toNat)
    (hnch : s.cfg.ppmNch.toNat ≤ 16) (hk : k < ps.length) (h : PpmFrameAfter s ps t₀ t₁ rest k t) :
    ∃ u, step t = .next u ∧ PpmFrameAfter s ps t₀ t₁ rest (k + 1) u := by
  obtain ⟨hcfg, hin, hsynced, hlast, hidx, hch, hout⟩ := h
  rw [List.drop_eq_getElem_cons hk] at hin
  rw [← hcfg] at hdata hlen hnch hch
  obtain ⟨u, hexec, hch', hidx', hlast', hsynced', ⟨-, -, -, -, hcfg', -, hinputs⟩, hout'⟩ :=
    exec_ppmPulse_channel (s := t.accept t₁ (requestsAt t₁ (ppmPulses (ps.drop (k + 1))) ++ rest)) (off := ps[k].off)
      (hdata _ (List.getElem_mem hk)) hsynced (hidx.trans_lt (hk.trans_le hlen)) hnch
  simp only [State.accept_ppm, State.accept_cfg, hidx] at hch' hidx'
  refine ⟨u, (step_encoded hin).trans hexec, hcfg'.trans hcfg, hinputs, hsynced', hlast'.trans hlast, hidx', fun i p hi hp => ?_, ?_⟩
  · rw [hch' i, ← hcfg]
    split
    · next hik =>
      rw [hik, List.getElem?_eq_getElem hk] at hp
      rw [Option.some.inj hp]
    · exact hch i p (by omega) hp
  · rw [hout', State.accept_out, hout, List.append_assoc, ← List.replicate_succ']

/-- The marker and the first `k` channel pulses run without a stop. -/
theorem run_ppm_frame (hmarker : s.cfg.ppmSyncAssert.toNat < m.on.toNat) (hdata : ∀ d ∈ ps, d.on.toNat ≤ s.cfg.ppmSyncAssert.toNat)
    (hlen : ps.length ≤ s.cfg.ppmNch.toNat) (hnch : s.cfg.ppmNch.toNat ≤ 16)
    (hin : s.inputs = .request (encode (.ppmPulse m.on m.off)) t₀ :: (requestsAt t₁ (ppmPulses ps) ++ rest)) :
    ∀ k ≤ ps.length, ∃ t, Host.Core.run Sys2Proof.core (k + 1) s = .next t ∧ PpmFrameAfter s ps t₀ t₁ rest k t := by
  intro k hk
  induction k with
  | zero =>
    obtain ⟨u, hstep, hframe⟩ := step_ppm_marker hmarker hin
    exact ⟨u, run_succ 0 s u hstep, hframe⟩
  | succ k ih =>
    obtain ⟨t, hrun, hframe⟩ := ih (Nat.le_of_succ_le hk)
    obtain ⟨u, hstep, hframe'⟩ := step_ppm_channel hdata hlen hnch hk hframe
    exact ⟨u, run_snoc hrun hstep, hframe'⟩

/-- Where `now` has not gone back behind the marker of a synced decoder, staleness is more than the timeout between the two. -/
theorem staleAt_iff_of_le {c : CfgRegs} {r : PpmRegs} {now : Time} (hsynced : r.synced = true) (hle : r.last.toNat ≤ now.toNat) :
    StaleAt c r now ↔ c.ppmTimeout.toNat < now.toNat - r.last.toNat := by
  have hmod : (now.toNat + 2 ^ 64 - r.last.toNat) % 2 ^ 64 = now.toNat - r.last.toNat := by omega
  rw [StaleAt, hmod]
  exact or_iff_right (by simp [hsynced])

/-- PPM.CH after the frame answers the live value up to the timeout and the safe value after it (O47). -/
theorem step_ppmCh_after_frame {i : Fin 16} (hi : i.val < s.cfg.ppmNch.toNat) (hnch : s.cfg.ppmNch.toNat ≤ 16)
    (hle : t₀.toNat ≤ t₂.toNat)
    (h : PpmFrameAfter s ps t₀ t₁ [.request (encode (.ppmCh (BitVec.ofNat 8 i.val))) t₂] ps.length t) :
    ∃ u v, step t = .next u ∧ u.ppm = t.ppm ∧ Emits t u [.response { status := .ok, data := [v] }]
      ∧ (t₂.toNat - t₀.toNat ≤ s.cfg.ppmTimeout.toNat → v = t.ppm.ch[i])
      ∧ (s.cfg.ppmTimeout.toNat < t₂.toNat - t₀.toNat → v = s.cfg.ppmSafe[i]) := by
  obtain ⟨hcfg, hin, hsynced, hlast, -, -, -⟩ := h
  rw [List.drop_length] at hin
  rw [← hcfg] at hi hnch ⊢
  rw [← hlast] at hle ⊢
  have hnum : (BitVec.ofNat 8 i.val).toNat = i.val := by rw [BitVec.toNat_ofNat, Nat.mod_eq_of_lt (by omega)]
  obtain ⟨u, v, hexec, ⟨⟨-, -, -, hppm, -, -⟩, -⟩, hout, hsafe, hlive⟩ :=
    (ppmChAnswersLiveSafeOrBadChannel (t.accept t₂ []) (BitVec.ofNat 8 i.val)).1 (by rwa [hnum]) hnch
  have hstale : StaleAt t.cfg t.ppm t₂ ↔ t.cfg.ppmTimeout.toNat < t₂.toNat - t.ppm.last.toNat := staleAt_iff_of_le hsynced hle
  rw [hnum] at hsafe hlive
  refine ⟨u, v, (step_encoded hin).trans hexec, hppm, hout, fun hwithin => ?_, fun hafter => ?_⟩
  · have hv := hlive fun hs => absurd (hstale.mp hs) (Nat.not_lt.mpr hwithin)
    exact Option.some.inj (hv.symm.trans (Vector.getElem?_eq_getElem i.isLt))
  · have hv := hsafe (hstale.mpr hafter)
    exact Option.some.inj (hv.symm.trans (Vector.getElem?_eq_getElem i.isLt))

end

/-- Settles O49: a pulse before any marker is dropped (O44); the marker and the channel pulses end in the frame after all of them
(`run_ppm_frame`), from which PPM.CH answers by the time since the marker (`step_ppmCh_after_frame`). -/
theorem ppmChannelReadFallsBackAfterTheTimeout : Obligations.PpmChannelReadFallsBackAfterTheTimeout := by
  intro s m ps i p t₀ t₁ t₂ hinv hmarker hdata hlen hp hle
  obtain ⟨hi, -⟩ := List.getElem?_eq_some_iff.mp hp
  refine ⟨fun hunsynced => ?_, fun hin => ?_⟩
  · obtain ⟨u, hexec, ⟨⟨-, -, -, hppm, -, -⟩, -⟩, -⟩ :=
      ppmPulseIsDroppedUnsyncedOrAtCapacity s p.on p.off (hdata p (List.mem_of_getElem? hp)) (.inl hunsynced)
    exact ⟨u, hexec, congrArg PpmRegs.ch hppm⟩
  · obtain ⟨t, hrun, hframe⟩ := run_ppm_frame hmarker hdata hlen hinv.nchMax hin ps.length le_rfl
    obtain ⟨u, v, hstep, hppm, hout, hlive, hsafe⟩ := step_ppmCh_after_frame (hi.trans_le hlen) hinv.nchMax hle hframe
    rw [← hppm] at hlive
    exact ⟨u, v, run_snoc hrun hstep, by rw [hout, hframe.out], by rw [hppm, hframe.ch i p hi hp], hlive, hsafe⟩

end Sys2Proof.Machine
end

section
/-! The dispatcher family (45_dispatcher.md): what DISP.REG does to the list, and PULSE against the members' own operations. -/

namespace Sys2Proof.Machine

/-! ## The operations of a list -/

/-- The first operation of a list, then the others. -/
theorem execAll_cons {i : Instr} {s t : State} (is : List Instr) (h : exec i s = .next t) : execAll (i :: is) s = execAll is t := by
  rw [execAll, h]

/-! ## DISP.REG -/

/-- On a list with room the length does not wrap. -/
theorem toNat_len_add_one {r : DispRegs} (hroom : r.len.toNat < 8) : (r.len + 1).toNat = r.len.toNat + 1 := by
  bv_omega

/-- Settles O52: with room the entry at `disp_len` is set (`exec_dispReg_room`), on a full list the status is raised (`exec_dispReg_full`). -/
theorem dispRegAppendsOrReportsFull : Obligations.DispRegAppendsOrReportsFull := by
  intro s id
  refine ⟨fun hroom => ?_, fun hfull => ?_⟩
  · refine ⟨_, exec_dispReg_room s id hroom, ⟨rfl, rfl, rfl, rfl, rfl, rfl, rfl⟩, rfl, toNat_len_add_one hroom, fun k => ?_⟩
    simp only [State.respond_disp, Fin.getElem_fin, Vector.getElem_set, eq_comm]
  · exact ⟨_, exec_dispReg_full s id (by omega), noRegisterWritten_append s _, rfl⟩

/-- As many DISP.REG as there is room for append their decoders to the members, in order, and each answers OK. -/
theorem execAll_dispReg (ids : List DecoderId) : ∀ s : State, s.disp.len.toNat + ids.length ≤ 8 →
    ∃ t, execAll (ids.map .dispReg) s = .next t ∧ t.disp.members = s.disp.members ++ ids ∧ OnlyDispWritten s t
      ∧ Emits s t (List.replicate ids.length okResponse) := by
  induction ids with
  | nil => exact fun s _ => ⟨s, rfl, (List.append_nil _).symm, ⟨rfl, rfl, rfl, rfl, rfl, rfl, rfl⟩, (List.append_nil _).symm⟩
  | cons id ids ih =>
    intro s hroom
    rw [List.length_cons] at hroom
    have hid : s.disp.len.toNat < 8 := by omega
    have hids : (s.disp.len + 1).toNat + ids.length ≤ 8 := by rw [toNat_len_add_one hid]; omega
    obtain ⟨t, hrest, hmembers, hframe, hout⟩ :=
      ih (({ s with disp := { len := s.disp.len + 1, list := s.disp.list.set s.disp.len.toNat id hid } }).respond .ok []) hids
    refine ⟨t, (execAll_cons _ (exec_dispReg_room s id hid)).trans hrest, ?_, hframe, ?_⟩
    · rw [hmembers, State.respond_disp, members_append s.disp id hid, List.append_assoc, List.singleton_append]
    · exact hout.trans (List.append_assoc ..)

/-! ## PULSE -/

/-- The two states agree on all that a decoder step reads or writes: every register but the dispatcher's, the ports, and the events. -/
def SteppedAlike (u v : State) : Prop := OnlyDispWritten u v ∧ v.events = u.events

/-- From two such states a decoder's step leads to two such states, with one response more or less between them (R211). -/
theorem SteppedAlike.stepDecoder {u v : State} (h : SteppedAlike u v) (id : DecoderId) (on off : Dur) :
    SteppedAlike ((u.stepDecoder id on off).respond .ok []) (v.stepDecoder id on off) := by
  obtain ⟨⟨hgfc, ha32, hp9, hppm, hcfg, hnow, hinputs⟩, hevents⟩ := h
  rw [State.events, State.events] at hevents
  cases id <;> simp [SteppedAlike, OnlyDispWritten, SamePorts, State.stepDecoder, State.events, *]

@[simp] theorem stepDecoder_disp (s : State) (id : DecoderId) (on off : Dur) : (s.stepDecoder id on off).disp = s.disp := by
  cases id <;> rfl

/-- The decoders' own operations one after another do what stepping them in turn does, and leave the dispatcher's registers (R211, R212). -/
theorem execAll_pulseOpOf (ids : List DecoderId) (on off : Dur) : ∀ u v : State, SteppedAlike u v →
    ∃ u', execAll (ids.map (fun id => pulseOpOf id on off)) u = .next u' ∧ SteppedAlike u' (v.stepAll ids on off)
      ∧ u'.disp = u.disp := by
  induction ids with
  | nil => exact fun u v h => ⟨u, rfl, h, rfl⟩
  | cons id ids ih =>
    intro u v h
    obtain ⟨u', hrest, halike, hdisp⟩ := ih _ _ (h.stepDecoder id on off)
    exact ⟨u', (execAll_cons _ (exec_pulseOpOf id on off u)).trans hrest, halike, hdisp.trans (stepDecoder_disp u id on off)⟩

/-- Settles O51: PULSE steps its members in turn and responds once, and the members' own operations do the same but for their responses
(`execAll_pulseOpOf`). -/
theorem pulseStepsTheMembersInListOrder : Obligations.PulseStepsTheMembersInListOrder := by
  intro s on off
  obtain ⟨u, hmembers, ⟨⟨hgfc, ha32, hp9, hppm, hcfg, -⟩, hevents⟩, hdisp⟩ :=
    execAll_pulseOpOf s.disp.members on off s s ⟨⟨rfl, rfl, rfl, rfl, rfl, rfl, rfl⟩, rfl⟩
  obtain ⟨kdisp, -, know, kinputs, -, -, -, -, es, hout, -⟩ := stepAll_frame s.disp.members on off s
  refine ⟨_, u, es, exec_pulse s on off, hmembers, ⟨hgfc, ha32, hp9, hppm, kdisp.trans hdisp.symm, hcfg⟩, ⟨know, kinputs⟩, ?_, ?_⟩
  · rw [Emits, State.respond_out, hout, List.append_assoc, okResponse]
  · rw [← hevents, State.events_eq _ _ _ hout, filterMap_event_map_event]

/-- Settles O53: the two registrations make the two decoders the members and change nothing that a decoder step reads (`execAll_dispReg`),
so PULSE steps them as their own operations do from the state before (`execAll_pulseOpOf`). -/
theorem twoRegisteredDecodersAreEachSteppedOnce : Obligations.TwoRegisteredDecodersAreEachSteppedOnce := by
  intro s x y on off hempty
  obtain ⟨r, hreg, hmembers, hframe, hout⟩ := execAll_dispReg [x, y] s (by simp [hempty])
  have hmembers : r.disp.members = [x, y] := by simpa [DispRegs.members, hempty] using hmembers
  have hevents : r.events = s.events := (State.events_eq s r _ hout).trans (List.append_nil _)
  obtain ⟨u, hown, ⟨⟨hgfc, ha32, hp9, hppm, -⟩, hstepped⟩, -⟩ := execAll_pulseOpOf [x, y] on off s r ⟨hframe, hevents⟩
  have hpulse : exec (.pulse on off) r = .next ((r.stepAll [x, y] on off).respond .ok []) := hmembers ▸ exec_pulse r on off
  refine ⟨_, u, (execAll_append _ [.pulse on off] s r hreg).trans (execAll_cons [] hpulse), hown, hgfc, ha32, hp9, hppm, ?_⟩
  rw [State.events_eq _ _ _ (State.respond_out ..), filterMap_event_response, List.append_nil, hstepped]

end Sys2Proof.Machine
end

section
/-! The configuration family (46_config.md): the answers to reserved register numbers (R230) and to illegal values (R232). -/

namespace Sys2Proof.Machine

/-- The values that a register accepts are those R232 does not list. -/
theorem not_illegal_iff (n : BitVec 8) (r : CfgReg) (v : Word) (h : CfgReg.ofNumber n = some r) :
    ¬ IllegalCfgValue n v ↔ r.legal v = true := by
  rw [illegal_iff n r v h, Bool.not_eq_false]

/-- Settles O54: a reserved number names no register (`ofNumber_eq_none`), and then both operations only raise ERR_BAD_REG. -/
theorem reservedRegisterNumbersAnswerBadReg : Obligations.ReservedRegisterNumbersAnswerBadReg := by
  intro s n v hreserved
  have hnone : CfgReg.ofNumber n = none := (ofNumber_eq_none n).mpr hreserved
  exact ⟨⟨_, exec_cfgRd_reserved s n hnone, noRegisterWritten_append s _, rfl⟩,
    ⟨_, exec_cfgWr_reserved s n v hnone, noRegisterWritten_append s _, rfl⟩⟩

/-- Settles O55: the number names a register (`ofNumber_of_not_reserved`), which refuses exactly the values R232 lists (`illegal_iff`); a
refused value raises ERR_BAD_VALUE, an accepted one is written to the configuration alone. -/
theorem onlyIllegalValuesAnswerBadValue : Obligations.OnlyIllegalValuesAnswerBadValue := by
  intro s n v hn
  obtain ⟨r, hr⟩ := ofNumber_of_not_reserved hn
  refine ⟨fun hillegal => ?_, fun hlegal => ?_⟩
  · exact ⟨_, exec_cfgWr_illegal s n v r hr ((illegal_iff n r v hr).mp hillegal), noRegisterWritten_append s _, rfl⟩
  · exact ⟨_, exec_cfgWr_legal s n v r hr ((not_illegal_iff n r v hr).mp hlegal), ⟨rfl, rfl, rfl, rfl, rfl, rfl, rfl⟩, rfl⟩

end Sys2Proof.Machine
end

section
/-! The exceptions family (60_exceptions.md): every operation completes (R247), a failed one has no other effect (R241), which status comes
from where (R243 to R245), and what `now` matters to (R257). -/

namespace Sys2Proof.Machine

/-! ## Every operation and every step completes (R247, R261) -/

/-- With nothing presented the block keeps all its state (R261). -/
theorem step_idle {s : State} (hin : s.inputs = []) : step s = .next s := by
  simp only [step, hin]

/-- Settles O9: this is the step's case of an empty input. -/
theorem idleBlockKeepsItsState : Obligations.IdleBlockKeepsItsState := fun _ hin => step_idle hin

/-- No operation faults or refuses, in any state (R247). -/
theorem exec_completes (i : Instr) (s : State) : ∃ t, exec i s = .next t := by
  obtain ⟨t, -, -, -, hexec, -⟩ := exec_answers i s
  exact ⟨t, hexec⟩

/-- No step faults or refuses: with a legal request because its operation completes. -/
theorem step_completes (s : State) : ∃ t, step s = .next t := by
  cases hin : s.inputs with
  | nil => exact ⟨s, step_idle hin⟩
  | cons x rest =>
    cases x with
    | reset => exact ⟨_, step_reset s rest hin⟩
    | request word now =>
      cases hdec : decode word with
      | error e => exact ⟨_, step_reserved s word now rest e hin hdec⟩
      | ok i =>
        obtain ⟨t, hexec⟩ := exec_completes i (s.accept now rest)
        exact ⟨t, (step_request s word now rest i hin hdec).trans hexec⟩

/-- Settles O10: the last part by induction on the number of steps, each of which completes (`step_completes`). -/
theorem everyOperationCompletes : Obligations.EveryOperationCompletes := by
  refine ⟨exec_completes, step_completes, fun k s => ?_⟩
  induction k with
  | zero => exact ⟨s, rfl⟩
  | succ k ih =>
    obtain ⟨t, hrun⟩ := ih
    obtain ⟨u, hstep⟩ := step_completes t
    exact ⟨u, run_snoc hrun hstep⟩

/-! ## What an operation answers (R241, R243 to R245) -/

/-- An operation whose response is the last record it emits leaves that response last on the output ports. -/
theorem Emits.getLast?_out {s t : State} {os : List Output} {r : Response} (h : Emits s t (os ++ [.response r])) :
    t.out.getLast? = some (.response r) := by
  rw [h, ← List.append_assoc, List.getLast?_concat]

/-- Settles O17: with a status other than OK no register is written, and of what the operation puts out the events and the transmitted pairs
are empty, so that the response alone is left (`exec_answers`). -/
theorem failedOperationHasNoOtherEffect : Obligations.FailedOperationHasNoOtherEffect := by
  intro i s
  obtain ⟨t, es, ps, r, hexec, hout, -, -, -, -, hfail, -⟩ := exec_answers i s
  refine ⟨t, r, hexec, Emits.getLast?_out hout, fun hne => ?_⟩
  obtain ⟨hregisters, rfl, rfl, hdata⟩ := hfail hne
  exact ⟨hregisters, hout, hdata⟩

/-- Settles O18: `exec_answers` says of each status which operation it comes from, and that none answers ERR_ILLEGAL_OP. -/
theorem eachErrorComesFromItsOwnOperation : Obligations.EachErrorComesFromItsOwnOperation := by
  intro i s
  obtain ⟨t, es, ps, r, hexec, hout, -, -, -, -, -, -, hsources⟩ := exec_answers i s
  exact ⟨t, r, hexec, Emits.getLast?_out hout, hsources⟩

/-- Settles O19: a pulse operation's response is OK without data and it transmits no pair, so that only events come before the response
(`exec_answers`). -/
theorem pulseOperationsAlwaysAnswerOk : Obligations.PulseOperationsAlwaysAnswerOk := by
  intro i s hpulse
  obtain ⟨t, es, ps, r, hexec, hout, -, -, -, -, -, hok, -⟩ := exec_answers i s
  obtain ⟨rfl, rfl⟩ := hok hpulse
  rw [List.map_nil, List.append_nil] at hout
  exact ⟨t, hexec, es, hout⟩

/-! ## What the time sample matters to (R257, R296) -/

/-- Settles O22: which case of its equation such an operation is in, and what it then writes and puts out, depends on its operands, the
configuration and registers alone, so that the same equation holds with `now` replaced. -/
theorem timeMattersOnlyToPpmOperations : Obligations.TimeMattersOnlyToPpmOperations := by
  intro i s n hop
  cases i
  case pulse | ppmPulse | ppmCh | ppmChs | ppmStale => simp [Instr.op] at hop
  case gfcPulse on off => exact ⟨_, exec_gfcPulse s on off, exec_gfcPulse _ on off⟩
  case a32Pulse on off => exact ⟨_, exec_a32Pulse s on off, exec_a32Pulse _ on off⟩
  case p9Pulse on off => exact ⟨_, exec_p9Pulse s on off, exec_p9Pulse _ on off⟩
  case dispReg id =>
    by_cases hroom : s.disp.len.toNat < 8
    · exact ⟨_, exec_dispReg_room s id hroom, exec_dispReg_room { s with now := n } id hroom⟩
    · exact ⟨_, exec_dispReg_full s id hroom, exec_dispReg_full _ id hroom⟩
  case a32Marshal w => exact ⟨_, exec_a32Marshal s w, exec_a32Marshal _ w⟩
  case a32Unmarshal dst w =>
    cases dst
    · exact ⟨_, exec_a32Unmarshal_absent s w, exec_a32Unmarshal_absent _ w⟩
    · exact ⟨_, exec_a32Unmarshal_present s w, exec_a32Unmarshal_present _ w⟩
  case p9Marshal w =>
    cases hw : dataByte? w with
    | none => exact ⟨_, exec_p9Marshal_wide s w hw, exec_p9Marshal_wide _ w hw⟩
    | some d => exact ⟨_, exec_p9Marshal_byte s w d hw, exec_p9Marshal_byte _ w d hw⟩
  case cfgWr m v =>
    cases hm : CfgReg.ofNumber m with
    | none => exact ⟨_, exec_cfgWr_reserved s m v hm, exec_cfgWr_reserved _ m v hm⟩
    | some r =>
      cases hlegal : r.legal v with
      | false => exact ⟨_, exec_cfgWr_illegal s m v r hm hlegal, exec_cfgWr_illegal _ m v r hm hlegal⟩
      | true => exact ⟨_, exec_cfgWr_legal s m v r hm hlegal, exec_cfgWr_legal _ m v r hm hlegal⟩
  case cfgRd m =>
    cases hm : CfgReg.ofNumber m with
    | none => exact ⟨_, exec_cfgRd_reserved s m hm, exec_cfgRd_reserved _ m hm⟩
    | some r => exact ⟨_, exec_cfgRd_register s m r hm, exec_cfgRd_register _ m r hm⟩

end Sys2Proof.Machine
end

section
/-! The reset and boot family (70_reset_and_hazards.md): what reset leaves (R271 to R273) and what the boot sequence establishes (R280). -/

namespace Sys2Proof.Machine

/-! ## Reset (R271 to R273) -/

/-- The reset input gives every register the value R271 lists, whatever it held before. -/
theorem resetValues_assertReset (s : State) : ResetValues s.assertReset where
  gfc := ⟨rfl, rfl⟩
  a32 := ⟨rfl, rfl⟩
  p9 := ⟨rfl, rfl, rfl⟩
  ppm := ⟨fun i => Vector.getElem_replicate i.isLt, rfl, rfl, rfl⟩
  disp := ⟨rfl, fun k => Vector.getElem_replicate k.isLt⟩
  thresholds := ⟨rfl, rfl, rfl, rfl, rfl, rfl, rfl, rfl, rfl⟩
  ppmCfg := ⟨rfl, rfl, rfl⟩
  a32Tx := ⟨rfl, rfl, rfl, rfl, rfl, rfl⟩
  p9Tx := ⟨rfl, rfl, rfl, rfl, rfl, rfl⟩
  safe := fun i => Vector.getElem_replicate i.isLt

/-- Settles O11: on `State.reset` the reset input changes nothing, so that it holds the values the reset input gives. -/
theorem resetStateHoldsTheResetValues : Obligations.ResetStateHoldsTheResetValues := resetValues_assertReset State.reset

/-- Settles O12: the step consumes the reset input (`step_reset`), which gives the reset values and leaves the streams. -/
theorem resetInputRestoresEveryRegister : Obligations.ResetInputRestoresEveryRegister := fun s rest hin =>
  ⟨_, step_reset s rest hin, resetValues_assertReset { s with inputs := rest }, rfl, rfl⟩

/-- Right after reset no marker has been seen, so that the PPM decoder is stale at every time (R185). -/
theorem ResetValues.staleAt {s : State} (h : ResetValues s) (now : Time) : StaleAt s.cfg s.ppm now := by
  obtain ⟨-, -, -, hsynced⟩ := h.ppm
  exact .inl hsynced

/-- Right after reset no decoder is a member. -/
theorem ResetValues.members {s : State} (h : ResetValues s) : s.disp.members = [] := by
  obtain ⟨hlen, -⟩ := h.disp
  rw [DispRegs.members, hlen]
  exact List.take_zero ..

/-- Settles O13: PPM.STALE answers the staleness (`ResetValues.staleAt`), and PULSE steps the members, of which there are none
(`ResetValues.members`). -/
theorem rightAfterResetStaleAndNoMember : Obligations.RightAfterResetStaleAndNoMember := by
  intro s hreset
  have hstale : stale s.cfg s.ppm s.now = true := (stale_iff _ _ _).mpr (hreset.staleAt s.now)
  refine ⟨⟨_, exec_ppmStale s, noRegisterWritten_append s _, ?_⟩, fun on off => ?_⟩
  · rw [Emits, State.respond_out, if_pos hstale]
  · have hpulse : exec (.pulse on off) s = .next ((s.stepAll [] on off).respond .ok []) := hreset.members ▸ exec_pulse s on off
    exact ⟨_, hpulse, noRegisterWritten_append s _, rfl⟩

/-! ## Boot (R280) -/

/-- With a legal tick and channel count every register holds a value that CFG.WR accepts (R232). -/
theorem legal_read {c : CfgRegs} (htick : 1 ≤ c.ppmTick.toNat) (hpos : 1 ≤ c.ppmNch.toNat) (hmax : c.ppmNch.toNat ≤ 16) (r : CfgReg) :
    r.legal (c.read r) = true := by
  cases r
  case ppmTick => exact decide_eq_true htick
  case ppmNch => exact decide_eq_true ⟨hpos, hmax⟩
  all_goals rfl

/-- Writing registers of a legal configuration one after another gives these registers their values there and leaves the others; each write
answers OK (R231). -/
theorem execAll_cfgWr {c : CfgRegs} (hlegal : ∀ r : CfgReg, r.legal (c.read r) = true) (rs : List CfgReg) : ∀ s : State,
    ∃ t, execAll (rs.map (fun r => .cfgWr r.number (c.read r))) s = .next t
      ∧ (∀ r, t.cfg.read r = if r ∈ rs then c.read r else s.cfg.read r) ∧ OnlyCfgWritten s t
      ∧ Emits s t (List.replicate rs.length okResponse) := by
  induction rs with
  | nil => exact fun s => ⟨s, rfl, fun _ => rfl, ⟨rfl, rfl, rfl, rfl, rfl, rfl, rfl⟩, (List.append_nil _).symm⟩
  | cons r₀ rs ih =>
    intro s
    have hfirst := exec_cfgWr_legal s r₀.number (c.read r₀) r₀ (number_ofNumber r₀) (hlegal r₀)
    obtain ⟨t, hrest, hread, hframe, hout⟩ := ih (({ s with cfg := s.cfg.write r₀ (c.read r₀) }).respond .ok [])
    refine ⟨t, (execAll_cons _ hfirst).trans hrest, fun r => ?_, hframe, hout.trans (List.append_assoc ..)⟩
    rw [hread, State.respond_cfg, read_write]
    by_cases hr : r = r₀ <;> simp [hr]

/-- From the reset configuration the writes of a boot leave the intended configuration: a register that is not written has its intended
value already. -/
theorem execAll_bootWrites {c : CfgRegs} (hlegal : ∀ r : CfgReg, r.legal (c.read r) = true) {s : State} (hcfg : s.cfg = CfgRegs.reset) :
    ∃ t, execAll (bootWrites c) s = .next t ∧ t.cfg = c ∧ OnlyCfgWritten s t
      ∧ Emits s t (List.replicate (bootWrites c).length okResponse) := by
  obtain ⟨t, hwrites, hread, hframe, hout⟩ :=
    execAll_cfgWr hlegal (CfgReg.all.filter (fun r => c.read r ≠ CfgRegs.reset.read r)) s
  refine ⟨t, hwrites, read_ext _ _ fun r => ?_, hframe, by rwa [bootWrites, List.length_map]⟩
  rw [hread, hcfg]
  split
  · rfl
  next hkept =>
    simp only [List.mem_filter, mem_all, true_and, decide_eq_true_eq, ne_eq, not_not] at hkept
    exact hkept.symm

/-- Settles O58: the writes establish the configuration (`execAll_bootWrites`), and the registrations, for which the empty list has room, then
append the members (`execAll_dispReg`); neither writes a decoder's register. -/
theorem bootEstablishesConfigurationAndMembers : Obligations.BootEstablishesConfigurationAndMembers := by
  intro s intended members hcfg hdisp htick hpos hmax hroom
  obtain ⟨t, hwrites, htcfg, ⟨tgfc, ta32, tp9, tppm, tdisp, tnow, tinputs⟩, htout⟩ :=
    execAll_bootWrites (legal_read htick hpos hmax) hcfg
  have hempty : t.disp = DispRegs.reset := tdisp.trans hdisp
  have hfits : t.disp.len.toNat + members.length ≤ 8 := by simpa [hempty, DispRegs.reset] using hroom
  obtain ⟨u, hregs, hmembers, ⟨ugfc, ua32, up9, uppm, ucfg, unow, uinputs⟩, huout⟩ := execAll_dispReg members t hfits
  refine ⟨u, (execAll_append _ _ s t hwrites).trans hregs, ucfg.trans htcfg, ?_, ugfc.trans tgfc, ua32.trans ta32, up9.trans tp9,
    uppm.trans tppm, ⟨unow.trans tnow, uinputs.trans tinputs⟩, ?_⟩
  · rw [hempty] at hmembers
    exact hmembers
  · rw [Emits, huout, htout, List.append_assoc, List.replicate_append_replicate, bootSequence, List.length_append, List.length_map]

end Sys2Proof.Machine
end
